-- ==== Sys2Proof/Word.lean ====
section
/-! DEFINITION. The wire words of the RGS-2: bytes and two-byte fields of the port and the fibre. -/

namespace Sys2Proof

/-- One byte on the SPI port or on the fibre. -/
abbrev Byte := BitVec 8

/-- One two-byte field of the SPI port (R188). -/
abbrev W16 := BitVec 16

end Sys2Proof
end

