-- ==== Sys2Proof/Syntax.lean ====
section
/-! DEFINITION. The commands of the RGS-2: one constructor per row of spec/opcode_table.json.
Operands of port commands are the wire fields of the command summary (R189), at their wire width;
events of the part's own timers carry the key of the record whose deadline they are. -/

namespace Sys2Proof

/-- The configuration record as CONFIGURE carries it: the 61 wire bytes, field by field, in the
order of the table of 11_controller_port_configuration_and_start.md. -/
structure ConfigWire where
  station : W16
  east : W16
  north : W16
  limit : W16
  yawRate : W16
  advection : W16
  halfWidth : W16
  expansion : W16
  gain : W16
  horizon : W16
  wakeSettle : W16
  ownSettle : W16
  radius : W16
  budget : W16
  holdOff : W16
  yieldLimit : W16
  startTimeoutCode : Byte
  overrunMargin : W16
  refreshPeriod : W16
  jitter : W16
  expiryMultiple : W16
  listenMultiple : W16
  periodCode : Byte
  windExpiry : W16
  endedTolerance : W16
  outcomeThreshold : W16
  fullPolicy : Byte
  roomThreshold : W16
  stormSense : Byte
  parkOffset : W16
  attentionEnables : Byte
  faultMasks : W16
  faultSeverities : W16
  deriving DecidableEq, Repr

/-- A sequence received on LRX (R15): either no delimiters are found in it, or bytes stand between
a start and an end delimiter. It is a frame only with exactly 19 bytes. -/
inductive Received where
  | garbled
  | delimited (bytes : List Byte)
  deriving DecidableEq, Repr

/-- The commands and events of the part, in the order of the table. -/
inductive Instr where
  /-- RESET is held low and released; `selLow` is the level of SEL at the release (R194). -/
  | hardwareReset (selLow : Bool)
  /-- A decisecond of crystal time ends (R1). -/
  | localTimeTick
  | configure (r : ConfigWire)
  | start (offset : W16)
  | stop
  | wind (direction speed : W16)
  | submit (tag : W16) (cls : Byte) (target : W16) (waiveFlag : Byte) (waiveDelay : W16)
      (expiryFlag : Byte) (expiryDelay : W16)
  | submitSweep (tag : W16) (cls : Byte) (step count : W16) (pacing : Byte) (interval : W16)
      (policy : Byte)
  | extend (tag extension : W16)
  | confirm
  | cancel (tag : W16)
  | begun (tag : W16)
  | ended (tag achieved : W16)
  | hold
  | release
  | clearHold (source : Byte)
  | resume
  | status
  | takeOutcomes (n : Byte)
  | readNeighbours (first : Byte)
  | readWindows (first : Byte)
  | clearFaults (kinds : W16)
  | clearLost
  | unknownCode (code : Byte)
  /-- The STORM line is now at `high` (R163). -/
  | stormLineEvent (high : Bool)
  | parkFallingEdge
  | lsdDeasserted
  | lsdAsserted
  /-- A whole received sequence ends on LRX (R34). -/
  | frameReceived (rx : Received)
  | laneActivity
  | laneQuiet
  | gapEnd
  | endOfTransmission
  | echoDeadline
  | backoffEnd
  | listenTimerExpiry
  | checkPeriodExpiry
  | signalLossTimerExpiry
  | refreshTimerExpiry
  | geometryPoint
  | intakeCompletion
  /-- The entry of `station` reaches its expiry deadline (R62). -/
  | entryExpiry (station : Nat)
  /-- The window of the key `station`, `move` reaches its close time (R98). -/
  | windowClose (station : Nat) (move : Byte)
  | binBoundary
  | windStalenessExpiry
  | waiveTime (tag : W16)
  | expiryTime (tag : W16)
  | paceDeadline (tag : W16)
  | holdOffExpiry
  | yieldPauseExpiry
  | startTimeoutExpiry
  | overrunExpiry
  | settleExpiry
  | guardAfterStart
  | transactionEnd
  deriving DecidableEq, Repr

end Sys2Proof
end

