-- ==== Sys2Proof/WellFormed.lean ====
section
/-! DEFINITION. Which terms of `Instr` stand for a command or event that can exist. -/

namespace Sys2Proof

/-- The code bytes that name a command (R189, command summary; hexadecimal). -/
def knownCodes : List Byte :=
  [0x01, 0x02, 0x03, 0x04, 0x10, 0x11, 0x12, 0x13, 0x14, 0x20, 0x21, 0x30, 0x31, 0x32, 0x33,
   0x40, 0x41, 0x42, 0x43, 0x44, 0x45]

/-- Well-formedness: UNKNOWN_CODE carries a code that names no command (R189); an event keyed by a
station names a station 1..4095 (R17, R56, R90); an event keyed by a request names a tag 1..65535
(R111). Every other term can exist: the wire fields of a port command take every value. -/
def Instr.wellFormed : Instr → Bool
  | .unknownCode code => !knownCodes.contains code
  | .entryExpiry station => decide (1 ≤ station ∧ station ≤ 4095)
  | .windowClose station _ => decide (1 ≤ station ∧ station ≤ 4095)
  | .waiveTime tag => decide (tag ≠ 0)
  | .expiryTime tag => decide (tag ≠ 0)
  | .paceDeadline tag => decide (tag ≠ 0)
  | .hardwareReset _ => true
  | .localTimeTick => true
  | .configure _ => true
  | .start _ => true
  | .stop => true
  | .wind _ _ => true
  | .submit _ _ _ _ _ _ _ => true
  | .submitSweep _ _ _ _ _ _ _ => true
  | .extend _ _ => true
  | .confirm => true
  | .cancel _ => true
  | .begun _ => true
  | .ended _ _ => true
  | .hold => true
  | .release => true
  | .clearHold _ => true
  | .resume => true
  | .status => true
  | .takeOutcomes _ => true
  | .readNeighbours _ => true
  | .readWindows _ => true
  | .clearFaults _ => true
  | .clearLost => true
  | .stormLineEvent _ => true
  | .parkFallingEdge => true
  | .lsdDeasserted => true
  | .lsdAsserted => true
  | .frameReceived _ => true
  | .laneActivity => true
  | .laneQuiet => true
  | .gapEnd => true
  | .endOfTransmission => true
  | .echoDeadline => true
  | .backoffEnd => true
  | .listenTimerExpiry => true
  | .checkPeriodExpiry => true
  | .signalLossTimerExpiry => true
  | .refreshTimerExpiry => true
  | .geometryPoint => true
  | .intakeCompletion => true
  | .binBoundary => true
  | .windStalenessExpiry => true
  | .holdOffExpiry => true
  | .yieldPauseExpiry => true
  | .startTimeoutExpiry => true
  | .overrunExpiry => true
  | .settleExpiry => true
  | .guardAfterStart => true
  | .transactionEnd => true

end Sys2Proof
end

