-- ==== Sys2Proof/Decode.lean ====
section
/-! DEFINITION. The bits of the opcode table (no row gives any), and the SPI command record of
R188 and R189: one code byte and the fields that the code calls for, high byte first. -/

namespace Sys2Proof

/-- No row of spec/opcode_table.json gives bits, so no word spells a command (log entry 7). -/
def decodeTableWord (_nbits _w : Nat) : Option Instr := none

/-- The two bytes of a field, high byte first (R188). -/
def putWord (w : W16) : List Byte := [w.extractLsb' 8 8, w.extractLsb' 0 8]

/-- Read a two-byte field from the front of a record. -/
def takeWord : List Byte → Option (W16 × List Byte)
  | hi :: lo :: rest => some (hi ++ lo, rest)
  | _ => none

/-- Read a one-byte field from the front of a record. -/
def takeByte : List Byte → Option (Byte × List Byte)
  | b :: rest => some (b, rest)
  | _ => none

/-- The 61 bytes of a configuration record on the wire. -/
def ConfigWire.bytes (c : ConfigWire) : List Byte :=
  putWord c.station ++ putWord c.east ++ putWord c.north ++ putWord c.limit ++ putWord c.yawRate ++
  putWord c.advection ++ putWord c.halfWidth ++ putWord c.expansion ++ putWord c.gain ++
  putWord c.horizon ++ putWord c.wakeSettle ++ putWord c.ownSettle ++ putWord c.radius ++
  putWord c.budget ++ putWord c.holdOff ++ putWord c.yieldLimit ++ [c.startTimeoutCode] ++
  putWord c.overrunMargin ++ putWord c.refreshPeriod ++ putWord c.jitter ++
  putWord c.expiryMultiple ++ putWord c.listenMultiple ++ [c.periodCode] ++
  putWord c.windExpiry ++ putWord c.endedTolerance ++ putWord c.outcomeThreshold ++
  [c.fullPolicy] ++ putWord c.roomThreshold ++ [c.stormSense] ++ putWord c.parkOffset ++
  [c.attentionEnables] ++ putWord c.faultMasks ++ putWord c.faultSeverities

/-- Read a configuration record, in the order of its table. -/
def takeConfig (bs : List Byte) : Option (ConfigWire × List Byte) := do
  let (station, bs) ← takeWord bs
  let (east, bs) ← takeWord bs
  let (north, bs) ← takeWord bs
  let (limit, bs) ← takeWord bs
  let (yawRate, bs) ← takeWord bs
  let (advection, bs) ← takeWord bs
  let (halfWidth, bs) ← takeWord bs
  let (expansion, bs) ← takeWord bs
  let (gain, bs) ← takeWord bs
  let (horizon, bs) ← takeWord bs
  let (wakeSettle, bs) ← takeWord bs
  let (ownSettle, bs) ← takeWord bs
  let (radius, bs) ← takeWord bs
  let (budget, bs) ← takeWord bs
  let (holdOff, bs) ← takeWord bs
  let (yieldLimit, bs) ← takeWord bs
  let (startTimeoutCode, bs) ← takeByte bs
  let (overrunMargin, bs) ← takeWord bs
  let (refreshPeriod, bs) ← takeWord bs
  let (jitter, bs) ← takeWord bs
  let (expiryMultiple, bs) ← takeWord bs
  let (listenMultiple, bs) ← takeWord bs
  let (periodCode, bs) ← takeByte bs
  let (windExpiry, bs) ← takeWord bs
  let (endedTolerance, bs) ← takeWord bs
  let (outcomeThreshold, bs) ← takeWord bs
  let (fullPolicy, bs) ← takeByte bs
  let (roomThreshold, bs) ← takeWord bs
  let (stormSense, bs) ← takeByte bs
  let (parkOffset, bs) ← takeWord bs
  let (attentionEnables, bs) ← takeByte bs
  let (faultMasks, bs) ← takeWord bs
  let (faultSeverities, bs) ← takeWord bs
  return ({ station, east, north, limit, yawRate, advection, halfWidth, expansion, gain, horizon,
            wakeSettle, ownSettle, radius, budget, holdOff, yieldLimit, startTimeoutCode,
            overrunMargin, refreshPeriod, jitter, expiryMultiple, listenMultiple, periodCode,
            windExpiry, endedTolerance, outcomeThreshold, fullPolicy, roomThreshold, stormSense,
            parkOffset, attentionEnables, faultMasks, faultSeverities }, bs)

/-- The fields that a known code calls for, read from the bytes after it, and the rest. -/
def decodeFields (code : Byte) (bs : List Byte) : Option (Instr × List Byte) :=
  match code.toNat with
  | 0x01 => do let (r, bs) ← takeConfig bs; return (.configure r, bs)
  | 0x02 => do let (offset, bs) ← takeWord bs; return (.start offset, bs)
  | 0x03 => some (.stop, bs)
  | 0x04 => do
      let (direction, bs) ← takeWord bs
      let (speed, bs) ← takeWord bs
      return (.wind direction speed, bs)
  | 0x10 => do
      let (tag, bs) ← takeWord bs
      let (cls, bs) ← takeByte bs
      let (target, bs) ← takeWord bs
      let (waiveFlag, bs) ← takeByte bs
      let (waiveDelay, bs) ← takeWord bs
      let (expiryFlag, bs) ← takeByte bs
      let (expiryDelay, bs) ← takeWord bs
      return (.submit tag cls target waiveFlag waiveDelay expiryFlag expiryDelay, bs)
  | 0x11 => do
      let (tag, bs) ← takeWord bs
      let (cls, bs) ← takeByte bs
      let (step, bs) ← takeWord bs
      let (count, bs) ← takeWord bs
      let (pacing, bs) ← takeByte bs
      let (interval, bs) ← takeWord bs
      let (policy, bs) ← takeByte bs
      return (.submitSweep tag cls step count pacing interval policy, bs)
  | 0x12 => do
      let (tag, bs) ← takeWord bs
      let (extension, bs) ← takeWord bs
      return (.extend tag extension, bs)
  | 0x13 => some (.confirm, bs)
  | 0x14 => do let (tag, bs) ← takeWord bs; return (.cancel tag, bs)
  | 0x20 => do let (tag, bs) ← takeWord bs; return (.begun tag, bs)
  | 0x21 => do
      let (tag, bs) ← takeWord bs
      let (achieved, bs) ← takeWord bs
      return (.ended tag achieved, bs)
  | 0x30 => some (.hold, bs)
  | 0x31 => some (.release, bs)
  | 0x32 => do let (source, bs) ← takeByte bs; return (.clearHold source, bs)
  | 0x33 => some (.resume, bs)
  | 0x40 => some (.status, bs)
  | 0x41 => do let (n, bs) ← takeByte bs; return (.takeOutcomes n, bs)
  | 0x42 => do let (first, bs) ← takeByte bs; return (.readNeighbours first, bs)
  | 0x43 => do let (first, bs) ← takeByte bs; return (.readWindows first, bs)
  | 0x44 => do let (kinds, bs) ← takeWord bs; return (.clearFaults kinds, bs)
  | 0x45 => some (.clearLost, bs)
  | _ => some (.unknownCode code, bs)

/-- The command that the bytes of a transaction spell, taken at the last bit of its record; the
bytes after it are the turnaround and whatever follows, which the part ignores. None while the
record is cut short: nothing is taken (R188). -/
def decodeRecord : List Byte → Option (Instr × List Byte)
  | [] => none
  | code :: bs => decodeFields code bs

/-- The command record of a port command; none for an event that is no port command. -/
def encodeRecord : Instr → Option (List Byte)
  | .configure r => some (0x01 :: r.bytes)
  | .start offset => some (0x02 :: putWord offset)
  | .stop => some [0x03]
  | .wind direction speed => some (0x04 :: (putWord direction ++ putWord speed))
  | .submit tag cls target waiveFlag waiveDelay expiryFlag expiryDelay =>
      some (0x10 :: (putWord tag ++ [cls] ++ putWord target ++ [waiveFlag] ++ putWord waiveDelay ++
        [expiryFlag] ++ putWord expiryDelay))
  | .submitSweep tag cls step count pacing interval policy =>
      some (0x11 :: (putWord tag ++ [cls] ++ putWord step ++ putWord count ++ [pacing] ++
        putWord interval ++ [policy]))
  | .extend tag extension => some (0x12 :: (putWord tag ++ putWord extension))
  | .confirm => some [0x13]
  | .cancel tag => some (0x14 :: putWord tag)
  | .begun tag => some (0x20 :: putWord tag)
  | .ended tag achieved => some (0x21 :: (putWord tag ++ putWord achieved))
  | .hold => some [0x30]
  | .release => some [0x31]
  | .clearHold source => some [0x32, source]
  | .resume => some [0x33]
  | .status => some [0x40]
  | .takeOutcomes n => some [0x41, n]
  | .readNeighbours first => some [0x42, first]
  | .readWindows first => some [0x43, first]
  | .clearFaults kinds => some (0x44 :: putWord kinds)
  | .clearLost => some [0x45]
  | .unknownCode code => some [code]
  | .hardwareReset _ => none
  | .localTimeTick => none
  | .stormLineEvent _ => none
  | .parkFallingEdge => none
  | .lsdDeasserted => none
  | .lsdAsserted => none
  | .frameReceived _ => none
  | .laneActivity => none
  | .laneQuiet => none
  | .gapEnd => none
  | .endOfTransmission => none
  | .echoDeadline => none
  | .backoffEnd => none
  | .listenTimerExpiry => none
  | .checkPeriodExpiry => none
  | .signalLossTimerExpiry => none
  | .refreshTimerExpiry => none
  | .geometryPoint => none
  | .intakeCompletion => none
  | .entryExpiry _ => none
  | .windowClose _ _ => none
  | .binBoundary => none
  | .windStalenessExpiry => none
  | .waiveTime _ => none
  | .expiryTime _ => none
  | .paceDeadline _ => none
  | .holdOffExpiry => none
  | .yieldPauseExpiry => none
  | .startTimeoutExpiry => none
  | .overrunExpiry => none
  | .settleExpiry => none
  | .guardAfterStart => none
  | .transactionEnd => none

end Sys2Proof
end

