-- ==== Sys2Proof/Config.lean ====
section
/-! DEFINITION. The configuration record: what one run of the part fixes
(11_controller_port_configuration_and_start.md, "The Configuration Record").
The spec states a result for every command, so there is no free value here (log entry 24). -/

namespace Sys2Proof

/-- What on the STORM line sets the STORM latch (R163). -/
inductive StormSense where
  | low | high | rising | falling
  deriving DecidableEq, Repr

/-- What the part does when the outcome log is nearly full (R178). -/
inductive FullPolicy where
  | hold | drop
  deriving DecidableEq, Repr

/-- The configuration record, in the order of its table. -/
structure Config where
  /-- station number, 1..4095; 0 means unconfigured -/
  station : Nat
  /-- E position, metres -/
  east : Nat
  /-- N position, metres -/
  north : Nat
  /-- L, offset limit, tenths of a degree -/
  limit : Nat
  /-- r, yaw rate, hundredths of a degree per second -/
  yawRate : Nat
  /-- a, advection ratio, 256ths -/
  advection : Nat
  /-- W0, base wake half-width, metres -/
  halfWidth : Nat
  /-- k, wake expansion, 256ths -/
  expansion : Nat
  /-- G, deflection gain -/
  gain : Nat
  /-- H, horizon, ds -/
  horizon : Nat
  /-- S_w, wake settle time, ds -/
  wakeSettle : Nat
  /-- S_o, own settle time, ds -/
  ownSettle : Nat
  /-- R, neighbourhood radius, metres -/
  radius : Nat
  /-- B, budget -/
  budget : Nat
  /-- Hd, intent hold-off, ds -/
  holdOff : Nat
  /-- Y, yield limit -/
  yieldLimit : Nat
  /-- start timeout code, 0..7 -/
  startTimeoutCode : Nat
  /-- m, overrun margin, percent -/
  overrunMargin : Nat
  /-- Rp, refresh period, ds -/
  refreshPeriod : Nat
  /-- J, refresh jitter, ds -/
  jitter : Nat
  /-- X, expiry multiple -/
  expiryMultiple : Nat
  /-- listen multiple -/
  listenMultiple : Nat
  /-- P code, 0..3 -/
  periodCode : Nat
  /-- wind expiry, ds -/
  windExpiry : Nat
  /-- ENDED tolerance, tenths of a degree -/
  endedTolerance : Nat
  /-- outcome threshold, records -/
  outcomeThreshold : Nat
  fullPolicy : FullPolicy
  /-- room threshold, places -/
  roomThreshold : Nat
  stormSense : StormSense
  /-- park offset, tenths of a degree -/
  parkOffset : Int
  /-- the attention causes that drive ATTN, in the order of R185 -/
  attentionEnables : BitVec 6
  /-- the masked fault kinds, in the order of R181 -/
  faultMasks : BitVec 10
  /-- the FATAL fault kinds, in the order of R181 -/
  faultSeverities : BitVec 10
  deriving DecidableEq, Repr

/-- The record's values at hardware reset: the default of each field. -/
def Config.default : Config where
  station := 0
  east := 0
  north := 0
  limit := 250
  yawRate := 30
  advection := 192
  halfWidth := 90
  expansion := 20
  gain := 33
  horizon := 3000
  wakeSettle := 300
  ownSettle := 100
  radius := 1500
  budget := 2
  holdOff := 20
  yieldLimit := 6
  startTimeoutCode := 3
  overrunMargin := 50
  refreshPeriod := 50
  jitter := 10
  expiryMultiple := 4
  listenMultiple := 2
  periodCode := 2
  windExpiry := 100
  endedTolerance := 10
  outcomeThreshold := 1
  fullPolicy := .hold
  roomThreshold := 1
  stormSense := .high
  parkOffset := 0
  attentionEnables := 0x3f
  faultMasks := 0
  faultSeverities := 2

end Sys2Proof
end

