-- ==== Sys2Proof/Machine/State.lean ====
section
/-! DEFINITION. The state of the RGS-2 as plain data, block by block as the block diagram of
00_scope.md lists them, and the state after hardware reset. -/

namespace Sys2Proof.Machine

/-! ### Names -/

/-- The part states (R191 to R193). -/
inductive PartState where
  | config | running | stopping
  deriving DecidableEq, Repr

/-- The class of a request (R111). -/
inductive Cls where
  | normal | priority
  deriving DecidableEq, Repr

/-- The phase a station announces (R39, R41). -/
inductive Phase where
  | idle | intent | committed | moving | settling
  deriving DecidableEq, Repr

/-- The states of the stagger engine (R134). -/
inductive EngineState where
  | idle | waiting | intent | granted | moving | settling
  deriving DecidableEq, Repr

/-- The head work of the engine: none, the front request of the queue, or the park (R134). -/
inductive HeadWork where
  | none | request | park
  deriving DecidableEq, Repr

/-- The link states (R18). -/
inductive LinkState where
  | off | listen | ready | check | down
  deriving DecidableEq, Repr

/-- The seven hold sources (R159). -/
inductive HoldSource where
  | storm | soft | wind | link | guard | halt | park
  deriving DecidableEq, Repr

/-- The ten fault kinds (R181). -/
inductive FaultKind where
  | echoLoss | duplicateStation | receiveOverrun | tableFull | windowFull
  | noStart | moveOverrun | badEnded | windStale | outcomeLost
  deriving DecidableEq, Repr

/-- The outcome codes (R175). -/
inductive OutcomeCode where
  | done | cancelled | expired | gaveUp | noStart | sweepDone | atLimit | unconfirmed | parked
  deriving DecidableEq, Repr

/-- The kind of work an outcome record reports (R175). -/
inductive WorkKind where
  | move | sweep | park
  deriving DecidableEq, Repr

/-- Why the machine would stop. The part has no condition that stops it: every command has an
effect or is refused by an answer code, so no constructor is needed (log entry 24, safe). -/
inductive Fault
  deriving DecidableEq, Repr

/-- Why a command has no meaning in the model. -/
inductive Refusal where
  /-- Raised by `exec` for a command of the table with no meaning yet (safe); no arm uses it. -/
  | notModelled (mnemonic : String)
  deriving DecidableEq, Repr

/-! ### Time and pins -/

/-- A behavioural timer: no deadline, or the local time of its deadline (R2). A deadline that R1
holds as 2^40 - 1 in place of a greater value stands here as 2^40, which no local time reaches
(log entry 15). -/
abbrev Timer := Option Nat

/-- The levels the part reads on its lines: STORM high, LSD asserted (light), and the activity that
the receiver hears on the receive lane (R15, R21, R163). -/
structure Pins where
  storm : Bool
  light : Bool
  laneActive : Bool
  deriving DecidableEq, Repr

/-- The SPI port: ready for a command, SEL high or its record not yet complete; a command taken, with
SDI ignored until SEL rises; or SEL low since before the release of RESET, so that no transaction is
taken (R188, R194, log entry 6). -/
inductive PortPhase where
  | noTransaction | taken | blocked
  deriving DecidableEq, Repr

/-- The transaction in progress: its phase and the answer record formed for it; `Port.sdo` gives the
bytes on SDO (R188). -/
structure Port where
  phase : PortPhase
  answer : List Byte
  deriving DecidableEq, Repr

/-! ### Wind record -/

/-- The condition of the wind record (R9). -/
inductive WindCondition where
  | cleared | fresh | stale
  deriving DecidableEq, Repr

/-- The wind record (R9). -/
structure WindRecord where
  direction : Nat
  speed : Nat
  condition : WindCondition
  staleness : Timer
  deriving DecidableEq, Repr

/-! ### Announcements and the array link -/

/-- The fields of one announcement frame (R39). -/
structure Frame where
  station : Nat
  phase : Phase
  cls : Cls
  move : Byte
  claimAge : Nat
  east : Nat
  north : Nat
  fromOffset : Int
  toOffset : Int
  timeA : Nat
  timeB : Nat
  deriving DecidableEq, Repr

/-- The reference times that the time fields of an announcement are computed from (R40, R46). -/
structure RefTimes where
  holdOff : Option Nat
  startTimeout : Option Nat
  begun : Option Nat
  expectedEnd : Option Nat
  ended : Option Nat
  settle : Option Nat
  deriving DecidableEq, Repr

/-- One edition of the announce slot: every field of an announcement but its times, and the
reference times of its phase (R24, R40). -/
structure Edition where
  station : Nat
  phase : Phase
  cls : Cls
  move : Byte
  claimAge : Nat
  east : Nat
  north : Nat
  fromOffset : Int
  toOffset : Int
  refs : RefTimes
  deriving DecidableEq, Repr

/-- The announce slot: EMPTY or one edition, the pending mark and the confirmed mark (R24). -/
structure Slot where
  edition : Option Edition
  pending : Bool
  confirmed : Bool
  deriving DecidableEq, Repr

/-- The transmit stage (R28 to R31). In DEFER the gap drawn, in µs, is held once the lane was found
quiet; in BACKOFF the wait drawn, in µs. -/
inductive Stage where
  | idle
  | defer (gap : Option Nat)
  | send
  | echoWait
  | backoff (micros : Nat)
  deriving DecidableEq, Repr

/-- The final attempt of STOP (R37): not requested, requested while a frame is in progress, or in
flight. -/
inductive FinalAttempt where
  | none | awaited | running
  deriving DecidableEq, Repr

/-- The link state trail, newest first; `current` is the link state (R19). -/
structure Trail where
  current : LinkState
  first : LinkState
  second : LinkState
  third : LinkState
  deriving DecidableEq, Repr

/-- A received frame with its arrival time (R3, R36). -/
structure Arrived where
  frame : Frame
  arrival : Nat
  deriving DecidableEq, Repr

/-- The array link (chapter 02). `sent` is the transmitter's copy of the 19 bytes and `sentCurrent`
its note that they come from the slot's present edition (R25). -/
structure Link where
  trail : Trail
  listenTimer : Timer
  checkTimer : Timer
  signalLoss : Timer
  refresh : Timer
  heardOther : Bool
  stage : Stage
  final : FinalAttempt
  jitter : W16
  collisions : Nat
  slot : Slot
  sent : List Byte
  sentCurrent : Bool
  buffer : List Arrived
  deriving DecidableEq, Repr

/-- The announcement builder (R40). -/
structure Builder where
  move : Byte
  claimAge : Nat
  refs : RefTimes
  deriving DecidableEq, Repr

/-! ### Intake, neighbour table, windows, quiet map -/

/-- The result of the wake geometry unit (R73). -/
inductive GeometryResult where
  | notAffecting
  | affecting (along : Nat) (across : Int) (delay : Nat)
  deriving DecidableEq, Repr

/-- The frame in work at the intake (R51, R52). `void` marks a frame that was in work when the part
entered CONFIG: its completion changes nothing (R54), and START finds the intake IDLE (R71). -/
structure InWork where
  frame : Frame
  arrival : Nat
  geometry : Option GeometryResult
  void : Bool
  deriving DecidableEq, Repr

/-- A neighbour entry (R56). -/
structure Neighbour where
  station : Nat
  east : Nat
  north : Nat
  inRadius : Bool
  phase : Phase
  move : Byte
  cls : Cls
  claimAge : Nat
  fromOffset : Int
  toOffset : Int
  beginEstimate : Option Nat
  endEstimate : Option Nat
  lastHeard : Nat
  expiry : Nat
  deriving DecidableEq, Repr

/-- The state of an arrival window (R90). -/
inductive WindowState where
  | provisional | live | frozen
  deriving DecidableEq, Repr

/-- An arrival window (R90); its close time is also its close deadline (R98). -/
structure Window where
  station : Nat
  move : Byte
  state : WindowState
  openTime : Nat
  closeTime : Nat
  along : Nat
  across : Int
  delay : Nat
  deriving DecidableEq, Repr

/-- One bin of the quiet map (R101). -/
inductive Bin where
  | clear | busy
  deriving DecidableEq, Repr

/-- The quiet map: base B0, bin boundary deadline and the 32 bins, bin 0 first (R100). -/
structure QuietMap where
  base : Nat
  boundary : Nat
  bins : List Bin
  deriving DecidableEq, Repr

/-! ### Request queue -/

/-- Where a request stands between the queue and the engine (R112). -/
inductive Position where
  | queued | waiting | intent | granted | moving | settling
  deriving DecidableEq, Repr

/-- The underrun policy of a PACED sweep (R131). -/
inductive Underrun where
  | repeatStep | skip | endSweep
  deriving DecidableEq, Repr

/-- The pacing of a sweep (R129, R130). -/
inductive Pacing where
  | released
  | paced (interval : Nat) (policy : Underrun)
  deriving DecidableEq, Repr

/-- The fields of a MOVE (R111). `waiveRuns` and `expiryRuns` say whether the deadline of the waive
time and of the expiry time still runs (R121, R122). -/
structure MoveJob where
  target : Int
  waiveTime : Option Nat
  waiveRuns : Bool
  expiryTime : Option Nat
  expiryRuns : Bool
  expiredPending : Bool
  deriving DecidableEq, Repr

/-- The fields of a SWEEP (R111). `afterPark` marks a RELEASED sweep that a park sent back to QUEUED:
its next step waits for a CONFIRM taken after the park (R172, log entry 11). -/
structure SweepJob where
  step : Int
  count : Nat
  pacing : Pacing
  stepsDone : Nat
  remaining : Nat
  extension : Nat
  confirm : Bool
  afterPark : Bool
  cancelPending : Bool
  paceDeadline : Timer
  unconfirmedPending : Bool
  deriving DecidableEq, Repr

/-- The kind of a request, with the fields of its kind. -/
inductive Job where
  | move (m : MoveJob)
  | sweep (w : SweepJob)
  deriving DecidableEq, Repr

/-- A request record (R111). -/
structure Request where
  tag : W16
  cls : Cls
  job : Job
  position : Position
  waitStart : Option Nat
  yields : Nat
  firstGrant : Option Nat
  deriving DecidableEq, Repr

/-! ### Stagger engine -/

/-- The work of a grant (R148). -/
inductive GrantWork where
  | request | park
  deriving DecidableEq, Repr

/-- The grant record (R148). -/
structure Grant where
  work : GrantWork
  tag : W16
  cls : Cls
  move : Byte
  fromOffset : Int
  target : Int
  duration : Nat
  deriving DecidableEq, Repr

/-- The stagger engine (R134). -/
structure Engine where
  state : EngineState
  work : HeadWork
  grant : Option Grant
  holdOff : Timer
  expired : Bool
  echo : Bool
  yieldPause : Timer
  startTimeout : Timer
  overrun : Timer
  settle : Timer
  lapsedTag : Option W16
  offset : Int
  deriving DecidableEq, Repr

/-! ### Holds, outcomes, faults, attention -/

/-- The hold set with its seven sources (R159), the STORM latch (R163), the PARK latch (R166), and
the two local times that the wait time of a PARKED record is made of (R171). -/
structure Holds where
  storm : Bool
  soft : Bool
  wind : Bool
  link : Bool
  guard : Bool
  halt : Bool
  park : Bool
  stormLatch : Bool
  parkLatch : Bool
  parkLatchedAt : Option Nat
  parkGrantedAt : Option Nat
  deriving DecidableEq, Repr

/-- An outcome record (R175). -/
structure OutcomeRecord where
  tag : W16
  kind : WorkKind
  outcome : OutcomeCode
  finalOffset : Int
  wait : Nat
  yields : Nat
  stepsDone : Nat
  deriving DecidableEq, Repr

/-- The outcome log, oldest record first, and the LOST condition (R175). -/
structure OutcomeLog where
  records : List OutcomeRecord
  lost : Bool
  deriving DecidableEq, Repr

/-- The context a fault carries (R181). -/
structure FaultContext where
  station : Option Nat
  move : Option Byte
  tag : Option W16
  deriving DecidableEq, Repr

/-- The first-fault record (R182). -/
structure FirstFault where
  kind : FaultKind
  time : Nat
  context : FaultContext
  deriving DecidableEq, Repr

/-- The fault recorder: the fault status, one bit a kind in the order of R181, and the first-fault
record (R182). -/
structure Recorder where
  status : BitVec 10
  first : Option FirstFault
  deriving DecidableEq, Repr

/-- The latched attention causes (R185); the level causes are functions of the state. -/
structure Attention where
  holdLatched : Bool
  sweepExtended : Bool
  sweepUnderrun : Bool
  deriving DecidableEq, Repr

/-! ### The state -/

/-- The whole machine. `pending` is the queue of commands that wait, oldest first. -/
structure State where
  pending : List Instr
  now : Nat
  part : PartState
  pins : Pins
  port : Port
  cfg : Config
  wind : WindRecord
  link : Link
  builder : Builder
  intake : Option InWork
  neighbours : List Neighbour
  windows : List Window
  quietMap : QuietMap
  queue : List Request
  engine : Engine
  holds : Holds
  log : OutcomeLog
  recorder : Recorder
  attention : Attention
  deriving DecidableEq, Repr

/-- What a step of this machine answers. -/
abbrev Result := Host.Outcome State Fault Refusal

/-! ### Reset values, block by block -/

/-- No reference time is held (R40). -/
def RefTimes.none : RefTimes := ⟨.none, .none, .none, .none, .none, .none⟩

/-- The wind record CLEARED (R14). -/
def WindRecord.clear : WindRecord := ⟨0, 0, .cleared, none⟩

/-- The slot EMPTY with both marks clear (R24). -/
def Slot.empty : Slot := ⟨none, false, false⟩

/-- The link after hardware reset (R19, R26, R27, R36, R38). -/
def Link.reset : Link where
  trail := ⟨.off, .off, .off, .off⟩
  listenTimer := none
  checkTimer := none
  signalLoss := none
  refresh := none
  heardOther := false
  stage := .idle
  final := .none
  jitter := 0
  collisions := 0
  slot := Slot.empty
  sent := []
  sentCurrent := false
  buffer := []

/-- The engine after hardware reset (R134). -/
def Engine.reset : Engine where
  state := .idle
  work := .none
  grant := none
  holdOff := none
  expired := false
  echo := false
  yieldPause := none
  startTimeout := none
  overrun := none
  settle := none
  lapsedTag := none
  offset := 0

/-- The hold set empty, both latches clear (R174). -/
def Holds.reset : Holds :=
  ⟨false, false, false, false, false, false, false, false, false, none, none⟩

/-- The map at local time 0 with the default period of 50 ds: all CLEAR (R110). -/
def QuietMap.reset : QuietMap := ⟨0, 50, List.replicate 32 .clear⟩

/-- The machine right after hardware reset (R194). The pin levels and the port with SEL high are
DESIGN CHOICES (log entries 4 and 6). -/
def State.reset : State where
  pending := []
  now := 0
  part := .config
  pins := ⟨false, true, false⟩
  port := ⟨.noTransaction, []⟩
  cfg := Config.default
  wind := WindRecord.clear
  link := Link.reset
  builder := ⟨0, 0, RefTimes.none⟩
  intake := none
  neighbours := []
  windows := []
  quietMap := QuietMap.reset
  queue := []
  engine := Engine.reset
  holds := Holds.reset
  log := ⟨[], false⟩
  recorder := ⟨0, none⟩
  attention := ⟨false, false, false⟩

/-! ### Block updates: each changes one block and leaves the rest -/

@[simps] def State.modPins (s : State) (f : Pins → Pins) : State := { s with pins := f s.pins }
@[simps] def State.modPort (s : State) (f : Port → Port) : State := { s with port := f s.port }
@[simps] def State.modWind (s : State) (f : WindRecord → WindRecord) : State :=
  { s with wind := f s.wind }
@[simps] def State.modLink (s : State) (f : Link → Link) : State := { s with link := f s.link }
@[simps] def State.modBuilder (s : State) (f : Builder → Builder) : State :=
  { s with builder := f s.builder }
@[simps] def State.modMap (s : State) (f : QuietMap → QuietMap) : State :=
  { s with quietMap := f s.quietMap }
@[simps] def State.modQueue (s : State) (f : List Request → List Request) : State :=
  { s with queue := f s.queue }
@[simps] def State.modEngine (s : State) (f : Engine → Engine) : State :=
  { s with engine := f s.engine }
@[simps] def State.modHolds (s : State) (f : Holds → Holds) : State := { s with holds := f s.holds }
@[simps] def State.modLog (s : State) (f : OutcomeLog → OutcomeLog) : State :=
  { s with log := f s.log }
@[simps] def State.modRecorder (s : State) (f : Recorder → Recorder) : State :=
  { s with recorder := f s.recorder }
@[simps] def State.modAttention (s : State) (f : Attention → Attention) : State :=
  { s with attention := f s.attention }
@[simps] def State.modNeighbours (s : State) (f : List Neighbour → List Neighbour) : State :=
  { s with neighbours := f s.neighbours }
@[simps] def State.modWindows (s : State) (f : List Window → List Window) : State :=
  { s with windows := f s.windows }
@[simps] def State.withIntake (s : State) (w : Option InWork) : State := { s with intake := w }
@[simps] def State.withPart (s : State) (p : PartState) : State := { s with part := p }
@[simps] def State.withNow (s : State) (t : Nat) : State := { s with now := t }
@[simps] def State.withConfig (s : State) (c : Config) : State := { s with cfg := c }
@[simps] def State.withPending (s : State) (q : List Instr) : State := { s with pending := q }

end Sys2Proof.Machine
end

