-- ==== Sys2Proof/Machine/Operands.lean ====
section
/-! DEFINITION. Operand values: how a wire field becomes a value of the part (R188 to R190), and the
codes of the enumerations the wire carries. -/

namespace Sys2Proof.Machine

/-- Clamp a whole number to lo..hi (00_scope.md, Notation). -/
def clampInt (lo hi x : Int) : Int := max lo (min hi x)

/-- Clamp a count to lo..hi. -/
def clampNat (lo hi x : Nat) : Nat := max lo (min hi x)

/-- Clamp to ±limit (R5). -/
def clampLimit (limit : Nat) (x : Int) : Int := clampInt (-(limit : Int)) limit x

/-- Clamp to −300..+300 (R6). -/
def clampOffset (x : Int) : Int := clampInt (-300) 300 x

/-- A flag byte with any value other than 0 is read as present (R188). -/
def flagPresent (b : Byte) : Bool := decide (b ≠ 0)

/-- class NORMAL 0, PRIORITY 1 (R189). -/
def Cls.ofCode (b : Byte) : Option Cls :=
  if b = 0 then some .normal else if b = 1 then some .priority else none

/-- underrun policy REPEAT 0, SKIP 1, END 2 (R189). -/
def Underrun.ofCode (b : Byte) : Option Underrun :=
  if b = 0 then some .repeatStep else if b = 1 then some .skip
  else if b = 2 then some .endSweep else none

/-- pacing RELEASED 0, PACED 1 (R189), with Q clamped to 10..6000 ds under PACED and, under
RELEASED, Q and the policy code neither checked nor kept (R115). -/
def Pacing.ofCodes (pacing : Byte) (interval : W16) (policy : Byte) : Option Pacing :=
  if pacing = 0 then some .released
  else if pacing = 1 then
    (Underrun.ofCode policy).map (Pacing.paced (clampNat 10 6000 interval.toNat))
  else none

/-- hold source in the order of the hold set, STORM 0 to PARK 6 (R189). -/
def HoldSource.ofCode (b : Byte) : Option HoldSource :=
  match b.toNat with
  | 0 => some .storm
  | 1 => some .soft
  | 2 => some .wind
  | 3 => some .link
  | 4 => some .guard
  | 5 => some .halt
  | 6 => some .park
  | _ => none

/-- The start timeout of a code, ds (R149). -/
def startTimeoutOf (code : Nat) : Nat :=
  match code with
  | 0 => 20
  | 1 => 50
  | 2 => 100
  | 3 => 200
  | 4 => 300
  | 5 => 600
  | 6 => 1200
  | _ => 3000

/-- The bin period of a code, ds (R100). -/
def binPeriodOf (code : Nat) : Nat :=
  match code with
  | 0 => 10
  | 1 => 20
  | 2 => 50
  | _ => 100

/-- P, the bin period of the configuration record. -/
def binPeriod (c : Config) : Nat := binPeriodOf c.periodCode

/-- The listen period: the listen multiple times Rp (R20). -/
def listenPeriod (c : Config) : Nat := c.listenMultiple * c.refreshPeriod

/-- full policy HOLD 0, DROP 1; a code outside the set keeps the stored one (R190). -/
def storePolicy (b : Byte) (kept : FullPolicy) : FullPolicy :=
  if b = 0 then .hold else if b = 1 then .drop else kept

/-- storm sense LOW 0, HIGH 1, RISING 2, FALLING 3; a code outside the set keeps the stored one
(R190). -/
def storeSense (b : Byte) (kept : StormSense) : StormSense :=
  if b = 0 then .low else if b = 1 then .high else if b = 2 then .rising
  else if b = 3 then .falling else kept

/-- A code that is below `bound` is stored, any other keeps the stored one (R190). -/
def storeCode (bound : Nat) (b : Byte) (kept : Nat) : Nat :=
  if b.toNat < bound then b.toNat else kept

/-- What CONFIGURE stores (R190). J is clamped with the Rp just stored, the park offset with the L
just stored; a station number outside 1..4095 keeps the stored one. -/
def storeConfig (w : ConfigWire) (c : Config) : Config :=
  let limit := clampNat 10 300 w.limit.toNat
  let refreshPeriod := clampNat 20 600 w.refreshPeriod.toNat
  { station := if 1 ≤ w.station.toNat ∧ w.station.toNat ≤ 4095 then w.station.toNat else c.station
    east := clampNat 0 32767 w.east.toNat
    north := clampNat 0 32767 w.north.toNat
    limit := limit
    yawRate := clampNat 10 200 w.yawRate.toNat
    advection := clampNat 128 256 w.advection.toNat
    halfWidth := clampNat 20 400 w.halfWidth.toNat
    expansion := clampNat 0 64 w.expansion.toNat
    gain := clampNat 0 255 w.gain.toNat
    horizon := clampNat 600 12000 w.horizon.toNat
    wakeSettle := clampNat 0 1200 w.wakeSettle.toNat
    ownSettle := clampNat 0 1200 w.ownSettle.toNat
    radius := clampNat 100 10000 w.radius.toNat
    budget := clampNat 1 15 w.budget.toNat
    holdOff := clampNat 5 100 w.holdOff.toNat
    yieldLimit := clampNat 1 15 w.yieldLimit.toNat
    startTimeoutCode := storeCode 8 w.startTimeoutCode c.startTimeoutCode
    overrunMargin := clampNat 0 200 w.overrunMargin.toNat
    refreshPeriod := refreshPeriod
    jitter := clampNat 0 (refreshPeriod / 2) w.jitter.toNat
    expiryMultiple := clampNat 2 8 w.expiryMultiple.toNat
    listenMultiple := clampNat 1 8 w.listenMultiple.toNat
    periodCode := storeCode 4 w.periodCode c.periodCode
    windExpiry := clampNat 10 600 w.windExpiry.toNat
    endedTolerance := clampNat 0 50 w.endedTolerance.toNat
    outcomeThreshold := clampNat 1 16 w.outcomeThreshold.toNat
    fullPolicy := storePolicy w.fullPolicy c.fullPolicy
    roomThreshold := clampNat 1 8 w.roomThreshold.toNat
    stormSense := storeSense w.stormSense c.stormSense
    parkOffset := clampLimit limit w.parkOffset.toInt
    attentionEnables := w.attentionEnables.truncate 6
    faultMasks := w.faultMasks.truncate 10
    faultSeverities := w.faultSeverities.truncate 10 }

/-- Codes of the enumerations, from 0 in the order of the table that defines each (R188). -/
def Cls.code : Cls → Nat
  | .normal => 0
  | .priority => 1

def Phase.code : Phase → Nat
  | .idle => 0
  | .intent => 1
  | .committed => 2
  | .moving => 3
  | .settling => 4

/-- The phase of a code 0..4 (R39). -/
def Phase.ofCode (n : Nat) : Option Phase :=
  match n with
  | 0 => some .idle
  | 1 => some .intent
  | 2 => some .committed
  | 3 => some .moving
  | 4 => some .settling
  | _ => none

def PartState.code : PartState → Nat
  | .config => 0
  | .running => 1
  | .stopping => 2

def EngineState.code : EngineState → Nat
  | .idle => 0
  | .waiting => 1
  | .intent => 2
  | .granted => 3
  | .moving => 4
  | .settling => 5

def LinkState.code : LinkState → Nat
  | .off => 0
  | .listen => 1
  | .ready => 2
  | .check => 3
  | .down => 4

def WindowState.code : WindowState → Nat
  | .provisional => 0
  | .live => 1
  | .frozen => 2

def GrantWork.code : GrantWork → Nat
  | .request => 0
  | .park => 1

def WorkKind.code : WorkKind → Nat
  | .move => 0
  | .sweep => 1
  | .park => 2

def OutcomeCode.code : OutcomeCode → Nat
  | .done => 0
  | .cancelled => 1
  | .expired => 2
  | .gaveUp => 3
  | .noStart => 4
  | .sweepDone => 5
  | .atLimit => 6
  | .unconfirmed => 7
  | .parked => 8

/-- The bit of a fault kind in a set of kinds, in the order of R181. -/
def FaultKind.index : FaultKind → Nat
  | .echoLoss => 0
  | .duplicateStation => 1
  | .receiveOverrun => 2
  | .tableFull => 3
  | .windowFull => 4
  | .noStart => 5
  | .moveOverrun => 6
  | .badEnded => 7
  | .windStale => 8
  | .outcomeLost => 9

end Sys2Proof.Machine
end

