-- ==== Sys2Proof/Machine/Ops.lean ====
section
/-! DEFINITION. Operations over local times, timers, the request queue and the sorted lists. -/

namespace Sys2Proof.Machine

/-! ### Local time and timers (R1, R2) -/

/-- The greatest local time, 2^40 − 1 (R1). -/
def timeMax : Nat := 1099511627775

/-- Stands for a local time held as 2^40 − 1 in place of a greater value (R1, R2, log entry 15). -/
def beyondTime : Nat := 1099511627776

/-- The local time `d` after `t`, held as R1 gives. -/
def later (t d : Nat) : Nat := min (t + d) beyondTime

/-- The value of a local time as it is compared, subtracted and reported. -/
def heldTime (t : Nat) : Nat := min t timeMax

/-- A timer expires when the local time reaches its deadline (R2); a stopped timer does not. -/
def Timer.due (t : Timer) (now : Nat) : Bool :=
  match t with
  | none => false
  | some d => decide (d ≤ now)

/-- The value of `floor`, rounded up: ceil(n / d). -/
def ceilDiv (n d : Nat) : Nat := (n + d - 1) / d

/-- D_move of an offset change (R8). -/
def moveDuration (c : Config) (delta : Int) : Nat :=
  ceilDiv (100 * delta.natAbs) c.yawRate

/-- A time span as a 16-bit field carries it: at most 65535. -/
def span16 (n : Nat) : Nat := min n 65535

/-! ### The request queue -/

/-- Change the front request. -/
def modFront (f : Request → Request) : List Request → List Request
  | [] => []
  | r :: rest => f r :: rest

/-- Change the request of a tag. -/
def modTag (tag : W16) (f : Request → Request) (q : List Request) : List Request :=
  q.map fun r => if r.tag = tag then f r else r

/-- The request of a tag, tags being unique in the queue (R111). -/
def findTag (tag : W16) (q : List Request) : Option Request :=
  q.find? fun r => decide (r.tag = tag)

/-- The queue without the request of a tag. -/
def removeTag (tag : W16) (q : List Request) : List Request :=
  q.filter fun r => decide (r.tag ≠ tag)

/-- A request set to a position (R112). -/
def Request.at (r : Request) (p : Position) : Request := { r with position := p }

/-- A request with its sweep fields changed; a MOVE is left as it is. -/
def Request.modSweep (f : SweepJob → SweepJob) (r : Request) : Request :=
  match r.job with
  | .move _ => r
  | .sweep w => { r with job := .sweep (f w) }

/-- A request with its move fields changed; a SWEEP is left as it is. -/
def Request.modMove (f : MoveJob → MoveJob) (r : Request) : Request :=
  match r.job with
  | .move m => { r with job := .move (f m) }
  | .sweep _ => r

/-- Whether a request is a sweep. -/
def Request.isSweep (r : Request) : Bool :=
  match r.job with
  | .move _ => false
  | .sweep _ => true

/-- Whether the work of a request has left the part's discretion: INTENT, GRANTED, MOVING, and for a
sweep SETTLING (R112, R116). -/
def Request.inHands (r : Request) : Bool :=
  match r.position with
  | .queued => false
  | .waiting => false
  | .intent => true
  | .granted => true
  | .moving => true
  | .settling => true

/-- PRIORITY requests of a list, in order. -/
def priorities (q : List Request) : List Request := q.filter fun r => decide (r.cls = .priority)

/-- NORMAL requests of a list, in order. -/
def normals (q : List Request) : List Request := q.filter fun r => decide (r.cls = .normal)

/-- Place an accepted request (R116). A NORMAL request joins the back. A PRIORITY request goes
behind work in the engine's hands and behind every PRIORITY request, and before every NORMAL request;
a NORMAL request that stood before PRIORITY ones becomes the first NORMAL request (log entry 16). A
displaced head returns to QUEUED. -/
def placeRequest (r : Request) (q : List Request) : List Request :=
  match r.cls with
  | .normal => q ++ [r]
  | .priority =>
    match q with
    | [] => [r]
    | h :: rest =>
      if h.inHands then h :: (priorities rest ++ r :: normals rest)
      else
        let q' := (if h.cls = .normal then h.at .queued else h) :: rest
        priorities q' ++ r :: normals q'

/-! ### Sorted lists -/

/-- Insert an entry in ascending order of station number (R55). -/
def insertNeighbour (n : Neighbour) : List Neighbour → List Neighbour
  | [] => [n]
  | v :: vs => if n.station < v.station then n :: v :: vs else v :: insertNeighbour n vs

/-- The table without the entry of a station. -/
def removeNeighbour (station : Nat) (ns : List Neighbour) : List Neighbour :=
  ns.filter fun n => decide (n.station ≠ station)

/-- The list order of windows: open time, then station number, then move number (R89). -/
def Window.before (w v : Window) : Bool :=
  decide (heldTime w.openTime < heldTime v.openTime ∨
    (heldTime w.openTime = heldTime v.openTime ∧
      (w.station < v.station ∨ (w.station = v.station ∧ w.move.toNat < v.move.toNat))))

/-- Insert a window at the place its open time, station and move number give (R91). -/
def insertWindow (w : Window) : List Window → List Window
  | [] => [w]
  | v :: vs => if w.before v then w :: v :: vs else v :: insertWindow w vs

/-- Whether a window has a key (R89). -/
def Window.hasKey (w : Window) (station : Nat) (move : Byte) : Bool :=
  decide (w.station = station ∧ w.move = move)

/-- The list without the window of a key. -/
def removeWindow (station : Nat) (move : Byte) (ws : List Window) : List Window :=
  ws.filter fun w => !w.hasKey station move

end Sys2Proof.Machine
end

