-- ==== Sys2Proof/Machine/Wire.lean ====
section
/-! DEFINITION. The encoding of answers on SDO (R188): answer codes, and fields high byte first. -/

namespace Sys2Proof.Machine

/-- The answer codes, in the order of their table (R188). -/
inductive Answer where
  | ok | wrongState | full | dupTag | badTag | noSuchTag | inMotion | noGrant | staleGrant
  | notSweep | openSweep | extensionPending | logFull | faultPending | noIdentity | badValue
  | badCommand
  deriving DecidableEq, Repr

/-- The answer code byte (R188). -/
def Answer.code : Answer → Byte
  | .ok => 0
  | .wrongState => 1
  | .full => 2
  | .dupTag => 3
  | .badTag => 4
  | .noSuchTag => 5
  | .inMotion => 6
  | .noGrant => 7
  | .staleGrant => 8
  | .notSweep => 9
  | .openSweep => 10
  | .extensionPending => 11
  | .logFull => 12
  | .faultPending => 13
  | .noIdentity => 14
  | .badValue => 15
  | .badCommand => 16

/-- A number in n bytes, high byte first. -/
def beBytes : Nat → Nat → List Byte
  | 0, _ => []
  | n + 1, v => BitVec.ofNat 8 (v / 256 ^ n) :: beBytes n v

/-- A one-byte number. -/
def byteOf (v : Nat) : List Byte := [BitVec.ofNat 8 v]

/-- A signed value in n bytes, two's complement. -/
def signedBytes (n : Nat) (v : Int) : List Byte := beBytes n (v % (256 ^ n : Nat)).toNat

/-- A set or clear condition, 1 or 0. -/
def flagByte (b : Bool) : List Byte := [if b then 1 else 0]

/-- A local time takes 5 bytes. -/
def timeBytes (t : Nat) : List Byte := beBytes 5 (heldTime t)

/-- A present flag and a local time; an absent one is carried as 0. -/
def optTimeBytes : Option Nat → List Byte
  | none => flagByte false ++ beBytes 5 0
  | some t => flagByte true ++ timeBytes t

/-- A present flag and a tag. -/
def optTagBytes : Option W16 → List Byte
  | none => flagByte false ++ beBytes 2 0
  | some t => flagByte true ++ beBytes 2 t.toNat

/-- The stored configuration record, 61 bytes in the order of its table (R190). -/
def configBytes (c : Config) : List Byte :=
  beBytes 2 c.station ++ beBytes 2 c.east ++ beBytes 2 c.north ++ beBytes 2 c.limit ++
  beBytes 2 c.yawRate ++ beBytes 2 c.advection ++ beBytes 2 c.halfWidth ++ beBytes 2 c.expansion ++
  beBytes 2 c.gain ++ beBytes 2 c.horizon ++ beBytes 2 c.wakeSettle ++ beBytes 2 c.ownSettle ++
  beBytes 2 c.radius ++ beBytes 2 c.budget ++ beBytes 2 c.holdOff ++ beBytes 2 c.yieldLimit ++
  byteOf c.startTimeoutCode ++ beBytes 2 c.overrunMargin ++ beBytes 2 c.refreshPeriod ++
  beBytes 2 c.jitter ++ beBytes 2 c.expiryMultiple ++ beBytes 2 c.listenMultiple ++
  byteOf c.periodCode ++ beBytes 2 c.windExpiry ++ beBytes 2 c.endedTolerance ++
  beBytes 2 c.outcomeThreshold ++ byteOf (match c.fullPolicy with | .hold => 0 | .drop => 1) ++
  beBytes 2 c.roomThreshold ++
  byteOf (match c.stormSense with | .low => 0 | .high => 1 | .rising => 2 | .falling => 3) ++
  signedBytes 2 c.parkOffset ++ byteOf c.attentionEnables.toNat ++ beBytes 2 c.faultMasks.toNat ++
  beBytes 2 c.faultSeverities.toNat

/-- An outcome record, 11 bytes (R189). -/
def OutcomeRecord.bytes (r : OutcomeRecord) : List Byte :=
  beBytes 2 r.tag.toNat ++ byteOf r.kind.code ++ byteOf r.outcome.code ++
  signedBytes 2 r.finalOffset ++ beBytes 2 r.wait ++ byteOf r.yields ++ beBytes 2 r.stepsDone

/-- A neighbour entry, 32 bytes (R70). -/
def Neighbour.bytes (n : Neighbour) : List Byte :=
  beBytes 2 n.station ++ beBytes 2 n.east ++ beBytes 2 n.north ++ flagByte n.inRadius ++
  byteOf n.phase.code ++ byteOf n.move.toNat ++ byteOf n.cls.code ++ byteOf n.claimAge ++
  signedBytes 2 n.fromOffset ++ signedBytes 2 n.toOffset ++ optTimeBytes n.beginEstimate ++
  optTimeBytes n.endEstimate ++ timeBytes n.lastHeard

/-- An arrival window, 22 bytes, with OPEN 0 or PENDING 1 judged at `now` (R90, R109). A window whose
close time is reached and whose close is not yet taken is neither by R90; that it is reported OPEN is the
model's choice, log entry 31. -/
def Window.bytes (now : Nat) (w : Window) : List Byte :=
  beBytes 2 w.station ++ byteOf w.move.toNat ++ byteOf w.state.code ++ timeBytes w.openTime ++
  timeBytes w.closeTime ++ beBytes 2 w.along ++ signedBytes 3 w.across ++ beBytes 2 w.delay ++
  byteOf (if heldTime w.openTime ≤ now then 0 else 1)

/-- A grant record with its present flag, 1 + 11 bytes (R148, R195). -/
def optGrantBytes : Option Grant → List Byte
  | none => flagByte false ++ beBytes 11 0
  | some g =>
    flagByte true ++ byteOf g.work.code ++ beBytes 2 g.tag.toNat ++ byteOf g.cls.code ++
    byteOf g.move.toNat ++ signedBytes 2 g.fromOffset ++ signedBytes 2 g.target ++
    beBytes 2 g.duration

/-- The first-fault record: four present flags in one byte, then kind, local time, station, move and
tag, an absent one carried as 0; 12 bytes (R195). -/
def optFirstFaultBytes : Option FirstFault → List Byte
  | none => beBytes 12 0
  | some f =>
    byteOf (1 + (if f.context.station.isSome then 2 else 0) +
      (if f.context.move.isSome then 4 else 0) + (if f.context.tag.isSome then 8 else 0)) ++
    byteOf f.kind.index ++ timeBytes f.time ++ beBytes 2 (f.context.station.getD 0) ++
    byteOf (f.context.move.getD 0).toNat ++ beBytes 2 (f.context.tag.getD 0).toNat

end Sys2Proof.Machine
end

