-- ==== Sys2Proof/Machine/FrameCheck.lean ====
section
/-! DEFINITION. The announcement frame: its 19 bytes, its check, and the well-formedness test of a
received sequence (R15 to R17, R39). -/

namespace Sys2Proof.Machine

/-- One bit of the frame check: the register is shifted one place toward its most significant end,
and combined with 1021 hex if the bit shifted out differs from the data bit (R16). -/
def crcBit (reg : W16) (bit : Bool) : W16 :=
  if reg.msb != bit then (reg <<< 1) ^^^ 0x1021 else reg <<< 1

/-- One byte of the frame check, most significant bit first (R16). -/
def crcByte (reg : W16) (b : Byte) : W16 :=
  [7, 6, 5, 4, 3, 2, 1, 0].foldl (fun r i => crcBit r (b.getLsbD i)) reg

/-- The frame check over a list of bytes, from a register of all ones (R16). -/
def frameCheck (bs : List Byte) : W16 := bs.foldl crcByte 0xffff

/-- Bytes 1 and 2: station number × 16 + phase code × 2 + class (R39). -/
def Frame.word (f : Frame) : Nat := f.station * 16 + f.phase.code * 2 + f.cls.code

/-- Bytes 0 to 16 of a frame (R39). -/
def Frame.body (f : Frame) : List Byte :=
  byteOf 1 ++ beBytes 2 f.word ++ byteOf f.move.toNat ++ byteOf f.claimAge ++ beBytes 2 f.east ++
  beBytes 2 f.north ++ signedBytes 2 f.fromOffset ++ signedBytes 2 f.toOffset ++
  beBytes 2 f.timeA ++ beBytes 2 f.timeB

/-- The 19 bytes of a frame, the check in bytes 17 and 18, high byte first (R16, R39). -/
def Frame.bytes (f : Frame) : List Byte := f.body ++ beBytes 2 (frameCheck f.body).toNat

/-- Two received bytes, high byte first. -/
def pair (hi lo : Byte) : W16 := hi ++ lo

/-- The fields of 19 bytes laid out as R39 gives, if the kind byte is 1, the station number is not 0,
the phase code is 0 to 4, the positions are at most 32767 and the offsets lie in −300..+300 (R17). -/
def readFrame : List Byte → Option Frame
  | [b0, b1, b2, b3, b4, b5, b6, b7, b8, b9, b10, b11, b12, b13, b14, b15, b16, _, _] =>
    let word := (pair b1 b2).toNat
    let east := (pair b5 b6).toNat
    let north := (pair b7 b8).toNat
    let fromOffset := (pair b9 b10).toInt
    let toOffset := (pair b11 b12).toInt
    match Phase.ofCode (word / 2 % 8) with
    | none => none
    | some phase =>
      if b0 = 1 ∧ word / 16 ≠ 0 ∧ east ≤ 32767 ∧ north ≤ 32767 ∧
          -300 ≤ fromOffset ∧ fromOffset ≤ 300 ∧ -300 ≤ toOffset ∧ toOffset ≤ 300 then
        some
          { station := word / 16
            phase := phase
            cls := if word % 2 = 0 then .normal else .priority
            move := b3
            claimAge := b4.toNat
            east := east
            north := north
            fromOffset := fromOffset
            toOffset := toOffset
            timeA := (pair b13 b14).toNat
            timeB := (pair b15 b16).toNat }
      else none
  | _ => none

/-- The check carried in bytes 17 and 18 equals the check computed over bytes 0 to 16 (R16). -/
def passesCheck (bs : List Byte) : Bool :=
  decide (bs.drop 17 = beBytes 2 (frameCheck (bs.take 17)).toNat)

/-- The frame of a well-formed received sequence; none for a malformed one (R15, R17). -/
def wellFormedFrame : Received → Option Frame
  | .garbled => none
  | .delimited bs => if passesCheck bs then readFrame bs else none

end Sys2Proof.Machine
end

