-- ==== Sys2Proof/Machine/Geometry.lean ====
section
/-! DEFINITION. The wake geometry unit (05_wake_geometry.md): from a heard move to the affecting
decision and the arrival delay. Every stage is exact integer arithmetic (R86). -/

namespace Sys2Proof.Machine

/-- Q[0] to Q[31] (R75). -/
def sineQuarter0 : List Nat :=
  [0, 101, 201, 302, 402, 503, 603, 704,
   804, 904, 1005, 1105, 1205, 1306, 1406, 1506,
   1606, 1706, 1806, 1906, 2006, 2105, 2205, 2305,
   2404, 2503, 2603, 2702, 2801, 2900, 2999, 3098]

/-- Q[32] to Q[63] (R75). -/
def sineQuarter1 : List Nat :=
  [3196, 3295, 3393, 3492, 3590, 3688, 3786, 3883,
   3981, 4078, 4176, 4273, 4370, 4467, 4563, 4660,
   4756, 4852, 4948, 5044, 5139, 5235, 5330, 5425,
   5520, 5614, 5708, 5803, 5897, 5990, 6084, 6177]

/-- Q[64] to Q[95] (R75). -/
def sineQuarter2 : List Nat :=
  [6270, 6363, 6455, 6547, 6639, 6731, 6823, 6914,
   7005, 7096, 7186, 7276, 7366, 7456, 7545, 7635,
   7723, 7812, 7900, 7988, 8076, 8163, 8250, 8337,
   8423, 8509, 8595, 8680, 8765, 8850, 8935, 9019]

/-- Q[96] to Q[127] (R75). -/
def sineQuarter3 : List Nat :=
  [9102, 9186, 9269, 9352, 9434, 9516, 9598, 9679,
   9760, 9841, 9921, 10001, 10080, 10159, 10238, 10316,
   10394, 10471, 10549, 10625, 10702, 10778, 10853, 10928,
   11003, 11077, 11151, 11224, 11297, 11370, 11442, 11514]

/-- Q[128] to Q[159] (R75). -/
def sineQuarter4 : List Nat :=
  [11585, 11656, 11727, 11797, 11866, 11935, 12004, 12072,
   12140, 12207, 12274, 12340, 12406, 12472, 12537, 12601,
   12665, 12729, 12792, 12854, 12916, 12978, 13039, 13100,
   13160, 13219, 13279, 13337, 13395, 13453, 13510, 13567]

/-- Q[160] to Q[191] (R75). -/
def sineQuarter5 : List Nat :=
  [13623, 13678, 13733, 13788, 13842, 13896, 13949, 14001,
   14053, 14104, 14155, 14206, 14256, 14305, 14354, 14402,
   14449, 14497, 14543, 14589, 14635, 14680, 14724, 14768,
   14811, 14854, 14896, 14937, 14978, 15019, 15059, 15098]

/-- Q[192] to Q[223] (R75). -/
def sineQuarter6 : List Nat :=
  [15137, 15175, 15213, 15250, 15286, 15322, 15357, 15392,
   15426, 15460, 15493, 15525, 15557, 15588, 15619, 15649,
   15679, 15707, 15736, 15763, 15791, 15817, 15843, 15868,
   15893, 15917, 15941, 15964, 15986, 16008, 16029, 16049]

/-- Q[224] to Q[255] (R75). -/
def sineQuarter7 : List Nat :=
  [16069, 16088, 16107, 16125, 16143, 16160, 16176, 16192,
   16207, 16221, 16235, 16248, 16261, 16273, 16284, 16295,
   16305, 16315, 16324, 16332, 16340, 16347, 16353, 16359,
   16364, 16369, 16373, 16376, 16379, 16381, 16383, 16384]

/-- The sine table Q[0] to Q[256]: 16384 × sin(i × 90° / 256), rounded to the nearest whole number
(R75). -/
def sineTable : List Nat :=
  sineQuarter0 ++ sineQuarter1 ++ sineQuarter2 ++ sineQuarter3 ++ sineQuarter4 ++ sineQuarter5 ++
  sineQuarter6 ++ sineQuarter7 ++ [16384]

/-- Q[i]. -/
def quarterSine (i : Nat) : Int := (sineTable.getD i 0 : Nat)

/-- sin(D) for a direction code 0..1023, by folding (R76). -/
def sine (d : Nat) : Int :=
  match d / 256 with
  | 0 => quarterSine (d % 256)
  | 1 => quarterSine (256 - d % 256)
  | 2 => -quarterSine (d % 256)
  | _ => -quarterSine (256 - d % 256)

/-- cos(D) = sin((D + 256) mod 1024) (R76). -/
def cosine (d : Nat) : Int := sine ((d + 256) % 1024)

/-- A projection: the sum of products plus 8192, divided by 16384 and rounded toward minus infinity
(R78). -/
def project (sum : Int) : Int := (sum + 8192) / 16384

/-- s, the along-wind distance (R78). -/
def alongWind (d : Nat) (dx dy : Int) : Int := project (dx * -sine d + dy * -cosine d)

/-- c, the cross-wind offset (R79). -/
def acrossWind (d : Nat) (dx dy : Int) : Int := project (dx * -cosine d + dy * sine d)

/-- Uw, the wake speed, with its floor of 5 (R81). -/
def wakeSpeed (c : Config) (u : Nat) : Nat := max 5 ((u * c.advection + 128) / 256)

/-- w, the wake half-width at a distance (R83). -/
def wakeHalfWidth (c : Config) (s : Nat) : Nat := c.halfWidth + c.expansion * s / 256

/-- δ(γ), the deflection of the wake centre, truncated toward zero (R84). -/
def deflection (c : Config) (gamma : Int) (s : Nat) : Int :=
  ((c.gain : Int) * gamma * (s : Int)).tdiv 65536

/-- The closed band test (R85). -/
def inBand (c : Config) (gamma0 gamma1 : Int) (s : Nat) (across : Int) : Bool :=
  let d0 := deflection c gamma0 s
  let d1 := deflection c gamma1 s
  let w : Int := wakeHalfWidth c s
  decide (min d0 d1 - w ≤ across ∧ across ≤ max d0 d1 + w)

/-- One computation: upstream test, horizon test, band test (R72, R77 to R85), with the direction
and speed of this part's own wind record (R74). -/
def wakeGeometry (c : Config) (direction speed : Nat) (f : Frame) : GeometryResult :=
  let dx : Int := (c.east : Int) - f.east
  let dy : Int := (c.north : Int) - f.north
  let s := alongWind direction dx dy
  if s ≤ 0 then .notAffecting
  else
    let delay := 100 * s.toNat / wakeSpeed c speed
    if c.horizon < delay then .notAffecting
    else
      let across := acrossWind direction dx dy
      if inBand c f.fromOffset f.toOffset s.toNat across then .affecting s.toNat across delay
      else .notAffecting

/-- Whether the unit computes for a frame: phases COMMITTED, MOVING and SETTLING (R52, R72). -/
def Frame.hasGeometry (f : Frame) : Bool :=
  match f.phase with
  | .idle => false
  | .intent => false
  | .committed => true
  | .moving => true
  | .settling => true

end Sys2Proof.Machine
end

