-- ==== Sys2Proof/Machine/MapOps.lean ====
section
/-! DEFINITION. The quiet map: derivation of the 32 bins, the three searches, and the quiet
condition (R100 to R108). -/

namespace Sys2Proof.Machine

/-- Bin k is BUSY when a window opens before the bin's end and closes after its start; a window with
equal open and close times makes no bin BUSY (R101). The last is R101's own word against its first
sentence for a bin that strictly contains such a time (log entry 28). -/
def binAt (base period : Nat) (ws : List Window) (k : Nat) : Bin :=
  if ws.any fun w => decide (heldTime w.openTime < heldTime w.closeTime ∧
      heldTime w.openTime < base + (k + 1) * period ∧ base + k * period < heldTime w.closeTime)
  then .busy else .clear

/-- The 32 bin states formed afresh from the list and the base (R102). -/
def deriveBins (base period : Nat) (ws : List Window) : List Bin :=
  (List.range 32).map (binAt base period ws)

/-- The map re-derived from the window list (R102). -/
def rederive (s : State) : State :=
  s.modMap fun m => { m with bins := deriveBins m.base (binPeriod s.cfg) s.windows }

/-- The map aligned to a local time: B0 = floor(now / P) × P, the bin boundary deadline one period
later (R100, R110). -/
def alignMap (s : State) : State :=
  let p := binPeriod s.cfg
  rederive (s.modMap fun m => { m with base := s.now / p * p, boundary := later (s.now / p * p) p })

/-- first-clear: the lowest-numbered CLEAR bin, or 32 (R103). -/
def firstClear (bins : List Bin) : Nat := bins.findIdx fun b => decide (b = .clear)

/-- run-end: the lowest-numbered bin whose state differs from bin 0, or 32 (R104). -/
def runEnd : List Bin → Nat
  | [] => 0
  | b0 :: rest => 1 + rest.findIdx fun b => decide (b ≠ b0)

/-- next-opportunity(n): the lowest i with i + n ≤ 32 and bins i to i + n − 1 all CLEAR, or 32
(R105). -/
def nextOpportunity (n : Nat) (bins : List Bin) : Nat :=
  ((List.range 33).find? fun i =>
    decide (i + n ≤ 32) && ((bins.drop i).take n).all fun b => decide (b = .clear)).getD 32

/-- The run length n that a move from the current offset to a target needs (R106). -/
def runLength (c : Config) (offset target : Int) : Nat :=
  min 32 (ceilDiv (moveDuration c (target - offset) + c.ownSettle) (binPeriod c))

/-- The quiet condition: bin 0 is CLEAR and run-end ≥ n (R107). -/
def quietFor (n : Nat) (bins : List Bin) : Bool :=
  decide (bins.head? = some .clear) && decide (n ≤ runEnd bins)

/-- The target of a request: the stored target of a MOVE, the next step's target of a sweep, which
is the current offset plus the step, clamped to ±L (R106, R124). -/
def requestTarget (c : Config) (offset : Int) (r : Request) : Int :=
  match r.job with
  | .move m => m.target
  | .sweep w => clampLimit c.limit (offset + w.step)

end Sys2Proof.Machine
end

