-- ==== Sys2Proof/Machine/Flags.lean ====
section
/-! DEFINITION. Sets and conditions: the hold set (R159), the sets of fault kinds (R181), the counts
the engine reads (R66 to R68), the attention causes and ATTN (R185). -/

namespace Sys2Proof.Machine

/-! ### Hold set -/

/-- Whether a hold source is set (R159). -/
def Holds.get (h : Holds) : HoldSource → Bool
  | .storm => h.storm
  | .soft => h.soft
  | .wind => h.wind
  | .link => h.link
  | .guard => h.guard
  | .halt => h.halt
  | .park => h.park

/-- A hold source made set or clear. -/
def Holds.put (h : Holds) (src : HoldSource) (b : Bool) : Holds :=
  match src with
  | .storm => { h with storm := b }
  | .soft => { h with soft := b }
  | .wind => { h with wind := b }
  | .link => { h with link := b }
  | .guard => { h with guard := b }
  | .halt => { h with halt := b }
  | .park => { h with park := b }

/-- The set is held when at least one source is set (R159). -/
def Holds.held (h : Holds) : Bool :=
  h.storm || h.soft || h.wind || h.link || h.guard || h.halt || h.park

/-- The hold set as a set of bits, STORM bit 0 to PARK bit 6 (R195). -/
def Holds.bits (h : Holds) : Nat :=
  h.storm.toNat + 2 * h.soft.toNat + 4 * h.wind.toNat + 8 * h.link.toNat + 16 * h.guard.toNat +
    32 * h.halt.toNat + 64 * h.park.toNat

/-! ### Sets of fault kinds -/

/-- Whether a kind is in a set of kinds (R181). -/
def hasKind (set : BitVec 10) (k : FaultKind) : Bool := set.getLsbD k.index

/-- The set of one kind. -/
def kindBit (k : FaultKind) : BitVec 10 := (1 : BitVec 10) <<< k.index

/-! ### Counts -/

/-- An entry that counts against the budget: in-radius, COMMITTED or MOVING (R66). -/
def Neighbour.active (n : Neighbour) : Bool :=
  n.inRadius && decide (n.phase = .committed ∨ n.phase = .moving)

/-- The active count (R66). -/
def activeCount (ns : List Neighbour) : Nat := ns.countP Neighbour.active

/-- An intent of (class, claim age, station) takes precedence over another (R67). -/
def outranks (c1 : Cls) (a1 s1 : Nat) (c2 : Cls) (a2 s2 : Nat) : Bool :=
  decide ((c1 = .priority ∧ c2 = .normal) ∨ (c1 = c2 ∧ (a2 < a1 ∨ (a1 = a2 ∧ s1 < s2))))

/-- The outranking count against an own class, claim age and station (R68). -/
def outrankingCountOf (cls : Cls) (age station : Nat) (ns : List Neighbour) : Nat :=
  ns.countP fun n => n.inRadius && decide (n.phase = .intent) &&
    outranks n.cls n.claimAge n.station cls age station

/-- The outranking count: 0 outside INTENT, else formed with the head's class, the frozen claim age
and the configured station (R67, R68). -/
def outrankingCount (s : State) : Nat :=
  match s.engine.state, s.queue with
  | .intent, r :: _ => outrankingCountOf r.cls s.builder.claimAge s.cfg.station s.neighbours
  | _, _ => 0

/-- The budget is used up by the active and the outranking count together (R141, R145). -/
def budgetSpent (s : State) : Bool :=
  decide (s.cfg.budget ≤ activeCount s.neighbours + outrankingCount s)

/-! ### Requests as the engine judges them -/

/-- A MOVE is waived from the moment the local time reaches its waive time; a sweep never (R121). -/
def Request.waived (now : Nat) (r : Request) : Bool :=
  match r.job with
  | .move m => Timer.due m.waiveTime now
  | .sweep _ => false

/-- Whether the next step of a sweep is eligible under its pacing (R129, R130): RELEASED, the confirm
flag set, or the first step unless a park has displaced it (R172, log entry 11); PACED, no pace
deadline ahead. -/
def SweepJob.stepEligible (w : SweepJob) : Bool :=
  match w.pacing with
  | .released => w.confirm || (decide (w.stepsDone = 0) && !w.afterPark)
  | .paced _ _ => decide (w.paceDeadline = none)

/-- Test 2 of R137: the head may leave WAITING as far as the request itself goes. -/
def Request.eligible (r : Request) : Bool :=
  match r.job with
  | .move m => !m.expiredPending
  | .sweep w => !w.unconfirmedPending && w.stepEligible

/-- Whether a deferred completion stands at a request (R123, R131). -/
def Request.deferred (r : Request) : Bool :=
  match r.job with
  | .move m => m.expiredPending
  | .sweep w => w.unconfirmedPending

/-- The quiet condition counts as met: waived, or judged on the map with the run length of the
request's target (R106, R107, R121). -/
def quietMet (s : State) (r : Request) : Bool :=
  r.waived s.now ||
    quietFor (runLength s.cfg s.engine.offset (requestTarget s.cfg s.engine.offset r))
      s.quietMap.bins

/-- The guard level stands: HOLD policy and 14 or more records in the log (R178). -/
def guardLevel (s : State) : Bool :=
  decide (s.cfg.fullPolicy = .hold ∧ 14 ≤ s.log.records.length)

/-! ### Attention -/

/-- The OUTCOMES cause (R185). -/
def causeOutcomes (s : State) : Bool := decide (s.cfg.outcomeThreshold ≤ s.log.records.length)
/-- The ROOM cause: free places at least the room threshold (R117, R185). -/
def causeRoom (s : State) : Bool := decide (s.cfg.roomThreshold ≤ 8 - s.queue.length)
/-- The GRANT cause: the engine is in GRANTED (R185). -/
def causeGrant (s : State) : Bool := decide (s.engine.state = .granted)
/-- The FAULT cause: the fault status is not empty (R185). -/
def causeFault (s : State) : Bool := decide (s.recorder.status ≠ 0)
/-- The SWEEP cause: either mark is set (R185). -/
def causeSweep (s : State) : Bool := s.attention.sweepExtended || s.attention.sweepUnderrun
/-- The HOLD cause (R162, R185). -/
def causeHold (s : State) : Bool := s.attention.holdLatched

/-- The six causes in the order of R185, OUTCOMES in bit 0. -/
def causeBits (s : State) : Nat :=
  (causeOutcomes s).toNat + 2 * (causeRoom s).toNat + 4 * (causeGrant s).toNat +
    8 * (causeFault s).toNat + 16 * (causeSweep s).toNat + 32 * (causeHold s).toNat

/-- ATTN is driven low while at least one enabled cause stands, and released otherwise (R185). -/
def State.attnLow (s : State) : Bool :=
  decide (BitVec.ofNat 6 (causeBits s) &&& s.cfg.attentionEnables ≠ 0)

/-- The STORM and PARK lines are observed in RUNNING and STOPPING, until the write of the final IDLE
edition (R163, R166, R193). -/
def linesObserved (s : State) : Bool :=
  decide (s.part ≠ .config ∧ s.link.final = .none)

end Sys2Proof.Machine
end

