-- ==== Sys2Proof/Machine/Transmit.lean ====
section
/-! DEFINITION. The transmitter and the announce slot (R24 to R33), and the announcement builder's
content and writes (R40 to R50). -/

namespace Sys2Proof.Machine

/-! ### Jitter generator (R27) -/

/-- The generator's next value: x × 25173 + 13849, mod 65536. -/
def jitterNext (x : W16) : W16 := x * 25173 + 13849

/-- The yield of a draw for 0..m from the generator's new value. -/
def jitterYield (x : W16) (m : Nat) : Nat := x.toNat * (m + 1) / 65536

/-! ### Attempts (R28) -/

/-- The lane is found quiet in DEFER: a gap draw in 0..15 gives a gap of 30 µs + g × 10 µs (R28). -/
def Link.startGap (l : Link) : Link :=
  { l with
    jitter := jitterNext l.jitter
    stage := .defer (some (30 + 10 * jitterYield (jitterNext l.jitter) 15)) }

/-- An attempt begins in DEFER; if the lane is already quiet the gap begins at once (R28). -/
def Link.beginAttempt (laneActive : Bool) (l : Link) : Link :=
  if laneActive then { l with stage := .defer none } else l.startGap

/-! ### The slot -/

/-- A write of the builder makes a new edition (R24): it clears the confirmed mark and, when marked
for immediate sending, sets the pending mark. In READY with the transmit stage IDLE such a write
begins an attempt at once (R33). -/
def Link.write (laneActive urgent : Bool) (e : Edition) (l : Link) : Link :=
  let l' := { l with
    slot := { edition := some e, pending := l.slot.pending || urgent, confirmed := false }
    sentCurrent := false }
  if urgent && decide (l.trail.current = .ready) && decide (l.stage = .idle) then
    l'.beginAttempt laneActive
  else l'

/-- The phase that follows from the engine state (R41). -/
def phaseOf : EngineState → Phase
  | .idle => .idle
  | .waiting => .idle
  | .intent => .intent
  | .granted => .committed
  | .moving => .moving
  | .settling => .settling

/-- The content that the builder forms from the present state (R41 to R45). In IDLE and INTENT both
offsets are the current offset; later they are the grant's (R43). The class is NORMAL in IDLE, the
head's in INTENT, the grant's later (R42); the claim age is carried in INTENT alone (R45). -/
def content (s : State) : Edition :=
  let phase := phaseOf s.engine.state
  let own : Edition :=
    { station := s.cfg.station
      phase := phase
      cls := .normal
      move := s.builder.move
      claimAge := 0
      east := s.cfg.east
      north := s.cfg.north
      fromOffset := s.engine.offset
      toOffset := s.engine.offset
      refs := s.builder.refs }
  match phase with
  | .idle => own
  | .intent =>
    { own with
      cls := match s.queue with | r :: _ => r.cls | [] => .normal
      claimAge := s.builder.claimAge }
  | .committed | .moving | .settling =>
    match s.engine.grant with
    | some g => { own with cls := g.cls, fromOffset := g.fromOffset, toOffset := g.target }
    | none => own

/-- The builder compares new content with the slot's edition, times left out, and writes as R47
gives: another phase or offset with the pending mark, another class, move number or claim age
without it, an equal content not at all. -/
def Link.announce (laneActive : Bool) (new : Edition) (l : Link) : Link :=
  match l.slot.edition with
  | none => l.write laneActive true new
  | some old =>
    if old.phase ≠ new.phase ∨ old.fromOffset ≠ new.fromOffset ∨ old.toOffset ≠ new.toOffset then
      l.write laneActive true new
    else if old.cls ≠ new.cls ∨ old.move ≠ new.move ∨ old.claimAge ≠ new.claimAge then
      l.write laneActive false new
    else l

/-- The builder forms new content and writes it as R47 gives. -/
def announce (s : State) : State :=
  s.modLink (Link.announce s.pins.laneActive (content s))

/-! ### Forming a frame (R25, R46) -/

/-- The local time until a reference time, 0 once it is reached, at most 65535 (R46). -/
def timeUntil (now : Nat) : Option Nat → Nat
  | none => 0
  | some t => span16 (heldTime t - now)

/-- The local time since a reference time, at most 65535 (R46). -/
def timeSince (now : Nat) : Option Nat → Nat
  | none => 0
  | some t => span16 (now - heldTime t)

/-- Time A of an edition, computed when the frame is formed (R46). A COMMITTED edition of a park has
no start-timeout deadline and carries 65535. -/
def Edition.timeA (now : Nat) (e : Edition) : Nat :=
  match e.phase with
  | .idle => 0
  | .intent => timeUntil now e.refs.holdOff
  | .committed =>
    match e.refs.startTimeout with
    | none => 65535
    | some t => timeUntil now (some t)
  | .moving => timeSince now e.refs.begun
  | .settling => timeSince now e.refs.ended

/-- Time B of an edition (R46). -/
def Edition.timeB (now : Nat) (e : Edition) : Nat :=
  match e.phase with
  | .idle => 0
  | .intent => 0
  | .committed => 0
  | .moving => timeUntil now e.refs.expectedEnd
  | .settling => timeUntil now e.refs.settle

/-- The frame formed from an edition at a local time (R25). -/
def Edition.frame (now : Nat) (e : Edition) : Frame where
  station := e.station
  phase := e.phase
  cls := e.cls
  move := e.move
  claimAge := e.claimAge
  east := e.east
  north := e.north
  fromOffset := e.fromOffset
  toOffset := e.toOffset
  timeA := e.timeA now
  timeB := e.timeB now

/-- Entry to SEND (R29): the frame is formed from the latest edition and kept, the pending mark
cleared, and the refresh timer restarted with Rp plus a jitter draw in 0..J (R26). An EMPTY slot
sends nothing and returns the stage to IDLE (R24). -/
def Link.enterSend (c : Config) (now : Nat) (l : Link) : Link :=
  match l.slot.edition with
  | none => { l with stage := .idle }
  | some e =>
    { l with
      stage := .send
      slot := { l.slot with pending := false }
      sent := (e.frame now).bytes
      sentCurrent := true
      jitter := jitterNext l.jitter
      refresh := some
        (later now (c.refreshPeriod + jitterYield (jitterNext l.jitter) c.jitter)) }

end Sys2Proof.Machine
end

