-- ==== Sys2Proof/Machine/Record.lean ====
section
/-! DEFINITION. What every block reports to: the giving up of an intent or a grant, a hold source
becoming set, a fault raised, an outcome record offered (R143, R150, R159, R160, R176, R182). -/

namespace Sys2Proof.Machine

/-- The head set to a position. -/
def headAt (p : Position) (s : State) : State := s.modQueue (modFront fun r => r.at p)

/-- The intent is given up and the head stands in WAITING: the hold-off timer is stopped, the marks
are cleared and IDLE is announced; no yield is counted and no pause started (R143). -/
def withdraw (s : State) : State :=
  announce <| headAt .waiting <| s.modEngine fun e =>
    { e with state := .waiting, holdOff := none, expired := false, echo := false }

/-- A normal grant lapses and the head stands in WAITING: the start timeout is stopped, the grant's
tag becomes the last lapsed grant tag, the record is absent and IDLE is announced (R150). -/
def lapse (s : State) : State :=
  announce <| headAt .waiting <| s.modEngine fun e =>
    { e with
      state := .waiting
      startTimeout := none
      lapsedTag := (e.grant.map Grant.tag).or e.lapsedTag
      grant := none }

/-- The effect of a held set on the engine (R160): an intent is withdrawn, a normal grant lapses,
everything else stays. The head's evaluation that follows keeps it in WAITING by test 1 of R137. -/
def heldEffect (s : State) : State :=
  match s.engine.state, s.engine.work with
  | .intent, _ => withdraw s
  | .granted, .request => lapse s
  | _, _ => s

/-- The hold set changed: the HOLD cause is latched (R162). -/
def latchHold (s : State) : State := s.modAttention fun a => { a with holdLatched := true }

/-- A block reports a source set. A repeated report is no change (R159); in CONFIG no block reports. -/
def reportSet (src : HoldSource) (s : State) : State :=
  if s.part = .config ∨ s.holds.get src = true then s
  else heldEffect (latchHold (s.modHolds fun h => h.put src true))

/-- A fault is raised (R182): masked, nothing; else the first-fault record is written if the status
was empty, the kind joins the status, and a FATAL kind reports HALT set. -/
def raiseFault (k : FaultKind) (ctx : FaultContext) (s : State) : State :=
  if hasKind s.cfg.faultMasks k then s
  else
    let s' := s.modRecorder fun f =>
      { status := f.status ||| kindBit k
        first := if f.status = 0 then some ⟨k, s.now, ctx⟩ else f.first }
    if hasKind s.cfg.faultSeverities k then reportSet .halt s' else s'

/-- No context (R181). -/
def noContext : FaultContext := ⟨none, none, none⟩

/-- The context of a tag (R181). -/
def tagContext (t : W16) : FaultContext := ⟨none, none, some t⟩

/-- The context of a station (R181). -/
def stationContext (n : Nat) : FaultContext := ⟨some n, none, none⟩

/-- Under the HOLD policy the GUARD source is set when the log count stands at 15 or more (R178). -/
def guardRise (s : State) : State :=
  if s.cfg.fullPolicy = .hold ∧ 15 ≤ s.log.records.length then reportSet .guard s else s

/-- A record is offered to the log (R176), and the log reports its count to the guard. -/
def offer (r : OutcomeRecord) (s : State) : State :=
  if s.log.lost then guardRise (raiseFault .outcomeLost (tagContext r.tag) s)
  else if 16 ≤ s.log.records.length then
    guardRise (raiseFault .outcomeLost (tagContext r.tag)
      (s.modLog fun l => { l with lost := true }))
  else guardRise (s.modLog fun l => { l with records := l.records ++ [r] })

/-- The outcome record of a completing request (R118). -/
def recordOf (r : Request) (o : OutcomeCode) (s : State) : OutcomeRecord where
  tag := r.tag
  kind := match r.job with | .move _ => .move | .sweep _ => .sweep
  outcome := o
  finalOffset := s.engine.offset
  wait :=
    match r.waitStart with
    | none => 0
    | some w => span16 ((r.firstGrant.getD s.now) - w)
  yields := r.yields
  stepsDone := match r.job with | .move _ => 0 | .sweep w => w.stepsDone

/-- A request completes: it leaves the queue and its record is offered (R118). What the engine takes
next is the completing rule's. -/
def completeRequest (r : Request) (o : OutcomeCode) (s : State) : State :=
  offer (recordOf r o s) (s.modQueue (removeTag r.tag))

/-- The outcome record of a park with its wait time (R171). -/
def parkedRecord (wait : Nat) (s : State) : OutcomeRecord where
  tag := 0
  kind := .park
  outcome := .parked
  finalOffset := s.engine.offset
  wait := span16 wait
  yields := 0
  stepsDone := 0

end Sys2Proof.Machine
end

