-- ==== Sys2Proof/Machine/Stagger.lean ====
section
/-! DEFINITION. The stagger engine's shared operations (R134 to R158), the park's (R166 to R173), and
a hold source becoming clear. -/

namespace Sys2Proof.Machine

/-! ### Taking a head and entering the states -/

/-- The engine takes the front entry of the queue as head in WAITING, its wait start set at its
first entry, or enters IDLE (R113, R136). The evaluation that follows is the caller's. -/
def takeHead (s : State) : State :=
  match s.queue with
  | [] => s.modEngine fun e => { e with state := .idle, work := .none }
  | r :: rest =>
    (s.modQueue fun _ =>
      { r with position := .waiting, waitStart := some (r.waitStart.getD s.now) } :: rest).modEngine
      fun e => { e with state := .waiting, work := .request }

/-- The claim age of a head: its wait in whole seconds, at most 255 (R45). -/
def claimAgeOf (now : Nat) (r : Request) : Nat :=
  min 255 ((now - r.waitStart.getD now) / 10)

/-- Entry to INTENT (R139). -/
def enterIntent (s : State) : State :=
  let deadline := later s.now s.cfg.holdOff
  let age := match s.queue with | r :: _ => claimAgeOf s.now r | [] => 0
  announce <| headAt .intent <|
    (s.modBuilder fun b =>
      { b with claimAge := age, refs := { b.refs with holdOff := some deadline } }).modEngine
      fun e =>
        { e with state := .intent, holdOff := some deadline, expired := false, echo := false }

/-- The head's grant: its tag and class, the incremented move number, the current offset, the target
fixed at the entry and its expected duration (R148). -/
def grantOf (r : Request) (s : State) : Grant where
  work := .request
  tag := r.tag
  cls := r.cls
  move := s.builder.move + 1
  fromOffset := s.engine.offset
  target := requestTarget s.cfg s.engine.offset r
  duration :=
    moveDuration s.cfg (requestTarget s.cfg s.engine.offset r - s.engine.offset)

/-- The request as it stands in GRANTED: first grant time set if absent, expiry deadline stopped
(R147). -/
def Request.granted (now : Nat) (r : Request) : Request :=
  Request.modMove (fun m => { m with expiryRuns := false })
    { r with position := .granted, firstGrant := some (r.firstGrant.getD now) }

/-- Entry to GRANTED for normal work (R147). -/
def enterGranted (s : State) : State :=
  match s.queue with
  | [] => s
  | r :: rest =>
    let deadline := later s.now (startTimeoutOf s.cfg.startTimeoutCode)
    announce <|
      ((s.modQueue fun _ => r.granted s.now :: rest).modBuilder fun b =>
        { b with move := b.move + 1, refs := { b.refs with startTimeout := some deadline } }).modEngine
        fun e =>
          { e with
            state := .granted
            work := .request
            grant := some (grantOf r s)
            holdOff := none
            expired := false
            echo := false
            startTimeout := some deadline }

/-! ### Evaluation in WAITING (R137, R138) -/

/-- What the six tests of R137 decide for a head. -/
inductive Verdict where
  | stay
  | zeroLength (o : OutcomeCode)
  | intent
  deriving DecidableEq, Repr

/-- The six tests in their order (R137): holds, eligibility, target, yield pause, quiet, budget.
Zero-length work passes over the last three, and waits at the guard level (R124, R138). -/
def verdict (s : State) (r : Request) : Verdict :=
  if s.holds.held then .stay
  else if !r.eligible then .stay
  else if requestTarget s.cfg s.engine.offset r = s.engine.offset then
    if guardLevel s then .stay
    else .zeroLength (match r.job with | .move _ => .done | .sweep _ => .atLimit)
  else if s.engine.yieldPause.isSome then .stay
  else if !quietMet s r then .stay
  else if s.cfg.budget ≤ activeCount s.neighbours then .stay
  else .intent

/-- The evaluation in WAITING. A zero-length completion takes the next head and evaluates it at once,
so it may go on for as many heads as the queue holds (R138). -/
def evaluateN : Nat → State → State
  | 0, s => s
  | n + 1, s =>
    match s.engine.state, s.queue with
    | .waiting, r :: _ =>
      match verdict s r with
      | .stay => s
      | .zeroLength o => evaluateN n (takeHead (completeRequest r o s))
      | .intent => enterIntent s
    | _, _ => s

/-- The evaluation of the head in WAITING (R137); each zero-length completion shortens the queue. -/
def evaluate (s : State) : State := evaluateN (s.queue.length + 1) s

/-- The engine takes the next head, or enters IDLE, and evaluates it at once (R136). -/
def takeNext (s : State) : State := evaluate (takeHead s)

/-! ### The contest (R141 to R145) -/

/-- The head, if the engine holds a request (R134). -/
def State.head (s : State) : Option Request := s.queue.head?

/-- The quiet condition of the head counts as met (R141). -/
def headQuiet (s : State) : Bool :=
  match s.queue with
  | r :: _ => quietMet s r
  | [] => true

/-- A yield (R142): the head's yield count rises, the pause starts, IDLE is announced; at the yield
limit the head completes GAVE-UP and the next head is taken. -/
def yieldIntent (s : State) : State :=
  let s' := announce <|
    (s.modQueue (modFront fun r => { r with position := .waiting, yields := r.yields + 1 })).modEngine
      fun e =>
        { e with
          state := .waiting
          holdOff := none
          expired := false
          echo := false
          yieldPause := some (later s.now s.cfg.holdOff) }
  match s'.queue with
  | [] => s'
  | r :: _ =>
    if s.cfg.yieldLimit ≤ r.yields then takeNext (completeRequest r .gaveUp s') else s'

/-- The commit test (R145). -/
def commitTest (s : State) : State :=
  if s.holds.held then evaluate (withdraw s)
  else if !headQuiet s then evaluate (withdraw s)
  else if budgetSpent s then yieldIntent s
  else enterGranted s

/-- The tests at an evaluation point in INTENT (R141); the third is made at the report of an intake
completion only. -/
def intentTests (atIntake : Bool) (s : State) : State :=
  if s.holds.held then evaluate (withdraw s)
  else if !headQuiet s then evaluate (withdraw s)
  else if atIntake && budgetSpent s then yieldIntent s
  else if s.engine.expired && s.engine.echo then commitTest s
  else s

/-- An evaluation point (R135). -/
def evalPoint (atIntake : Bool) (s : State) : State :=
  match s.engine.state with
  | .waiting => evaluate s
  | .intent => intentTests atIntake s
  | .idle | .granted | .moving | .settling => s

/-! ### A hold source becoming clear (R159, R160) -/

/-- A block reports a source clear; the change is an evaluation point, and it lets the engine go on
only when the set is left empty (R160). -/
def reportClear (src : HoldSource) (s : State) : State :=
  if s.part = .config ∨ s.holds.get src = false then s
  else
    let s' := latchHold (s.modHolds fun h => h.put src false)
    if s'.holds.held then heldEffect s' else evalPoint false s'

/-- The log reports the GUARD source for the count now held (R178, R179). -/
def reportGuard (s : State) : State :=
  if s.cfg.fullPolicy = .hold then
    if 15 ≤ s.log.records.length then reportSet .guard s else reportClear .guard s
  else s

/-! ### The end of a move -/

/-- Entry to SETTLING (R155). A sweep whose step has ended stays the head work. -/
def enterSettling (s : State) : State :=
  let deadline := later s.now s.cfg.ownSettle
  let s' := match s.engine.work with
    | .request => headAt .settling s
    | .none | .park => s
  announce <|
    (s'.modBuilder fun b => { b with refs := { b.refs with settle := some deadline } }).modEngine
      fun e => { e with state := .settling, settle := some deadline }

/-- What the settle expiry does (R155): the grant record absent, the sweep or the front entry taken
as head or IDLE entered, IDLE announced, the head evaluated. -/
def endSettling (s : State) : State :=
  evaluate <| announce <| takeHead <| s.modEngine fun e => { e with settle := none, grant := none }

/-- The step that follows the work at an ENDED (step 5 of R154, R156, R173): SETTLING in RUNNING with
S_o above 0, the settle expiry's effects with S_o = 0, IDLE in STOPPING. -/
def afterEnded (s : State) : State :=
  if s.part = .stopping then
    announce <| s.modEngine fun e => { e with state := .idle, work := .none, grant := none }
  else if s.cfg.ownSettle = 0 then endSettling s
  else enterSettling s

/-! ### The park (R166 to R173) -/

/-- The park target: the configured park offset, clamped to ±L when the grant is formed (R5). -/
def parkTarget (c : Config) : Int := clampLimit c.limit c.parkOffset

/-- A request that the park sends back to QUEUED (R167). A RELEASED sweep then waits for a CONFIRM
taken after the park, its first step too, so its confirm flag is cleared (R172, log entry 11). -/
def Request.displacedByPark (r : Request) : Request :=
  Request.modSweep
    (fun w => match w.pacing with
      | .released => { w with confirm := false, afterPark := true }
      | .paced _ _ => w)
    (r.at .queued)

/-- Entry to GRANTED for the park (R169): the head, if any, returns to QUEUED. -/
def enterGrantedPark (s : State) : State :=
  let target := parkTarget s.cfg
  let s' := match s.engine.work with
    | .request => s.modQueue (modFront Request.displacedByPark)
    | .none | .park => s
  announce <|
    ((s'.modHolds fun h => { h with parkGrantedAt := some s.now }).modBuilder fun b =>
      { b with move := b.move + 1, refs := { b.refs with startTimeout := none } }).modEngine
      fun e =>
        { e with
          state := .granted
          work := .park
          grant := some
            { work := .park
              tag := 0
              cls := .priority
              move := s.builder.move + 1
              fromOffset := s.engine.offset
              target := target
              duration := moveDuration s.cfg (target - s.engine.offset) }
          echo := false
          expired := false
          settle := none }

/-- The PARK latch is cleared, and with it the PARK source (R166, R170). -/
def clearParkLatch (s : State) : State :=
  reportClear .park
    (s.modHolds fun h =>
      { h with parkLatch := false, parkLatchedAt := none, parkGrantedAt := none })

/-- The time from the setting of the PARK latch to `t` (R171). -/
def parkWait (s : State) (t : Nat) : Nat := t - s.holds.parkLatchedAt.getD t

/-- The ENDED of a normal move with the PARK latch set (R170): the park is served, or, with its
target already reached, completes PARKED at once and the ended move goes on. -/
def parkAtEnded (s : State) : State :=
  if parkTarget s.cfg = s.engine.offset then
    afterEnded (clearParkLatch (offer (parkedRecord (parkWait s s.now) s) s))
  else enterGrantedPark s

/-- The ENDED of the park: PARKED is offered and the latch cleared (R170, R171). -/
def finishPark (s : State) : State :=
  clearParkLatch
    ((offer (parkedRecord (parkWait s (s.holds.parkGrantedAt.getD s.now)) s) s).modEngine
      fun e => { e with work := .none })

/-- The setting of the PARK latch, with the service of the park in the same event (R166 to R168). -/
def servePark (s : State) : State :=
  if parkTarget s.cfg = s.engine.offset ∧ s.engine.state ≠ .moving then
    offer (parkedRecord 0 s) s
  else
    let s' := reportSet .park
      (s.modHolds fun h => { h with parkLatch := true, parkLatchedAt := some s.now })
    match s'.engine.state with
    | .moving => s'
    | .idle | .waiting | .intent | .granted | .settling => enterGrantedPark s'

end Sys2Proof.Machine
end

