-- ==== Sys2Proof/Machine/Table.lean ====
section
/-! DEFINITION. The table step of an intake completion (R53 to R65). -/

namespace Sys2Proof.Machine

/-- The in-radius test on a position (R57). -/
def inRadius (c : Config) (east north : Nat) : Bool :=
  let dx : Int := (c.east : Int) - east
  let dy : Int := (c.north : Int) - north
  decide (dx * dx + dy * dy ≤ (c.radius : Int) * c.radius)

/-- The begin estimate of a frame by phase: a MOVING frame's arrival − time A (R59). -/
def beginOf (f : Frame) (arrival : Nat) : Option Nat :=
  match f.phase with
  | .moving => some (arrival - f.timeA)
  | .idle | .intent | .committed | .settling => none

/-- The end estimate of a frame by phase (R59). -/
def endOf (f : Frame) (arrival : Nat) : Option Nat :=
  match f.phase with
  | .moving => some (later arrival f.timeB)
  | .settling => some (arrival - f.timeA)
  | .idle | .intent | .committed => none

/-- A new entry (R59). -/
def newEntry (c : Config) (f : Frame) (arrival : Nat) : Neighbour where
  station := f.station
  east := f.east
  north := f.north
  inRadius := inRadius c f.east f.north
  phase := f.phase
  move := f.move
  cls := f.cls
  claimAge := f.claimAge
  fromOffset := f.fromOffset
  toOffset := f.toOffset
  beginEstimate := beginOf f arrival
  endEstimate := endOf f arrival
  lastHeard := arrival
  expiry := later arrival (c.expiryMultiple * c.refreshPeriod)

/-- An entry updated by a frame (R60): the in-radius flag is recomputed if the position changed, and
a SETTLING frame of the same move number keeps a begin estimate held. -/
def updateEntry (c : Config) (f : Frame) (arrival : Nat) (n : Neighbour) : Neighbour :=
  { newEntry c f arrival with
    inRadius := if n.east = f.east ∧ n.north = f.north then n.inRadius
      else inRadius c f.east f.north
    beginEstimate :=
      if f.phase = .settling ∧ n.move = f.move then n.beginEstimate else beginOf f arrival }

/-- The earlier of two victims: earliest last-heard time, then lower station number (R64). -/
def earlierVictim (n m : Neighbour) : Bool :=
  decide (n.lastHeard < m.lastHeard ∨ (n.lastHeard = m.lastHeard ∧ n.station < m.station))

/-- The victim among candidates (R64). -/
def pickVictim : List Neighbour → Option Neighbour
  | [] => none
  | n :: rest =>
    match pickVictim rest with
    | none => some n
    | some m => if earlierVictim m n then some m else some n

/-- The victim of a full table: an out-of-radius entry in SETTLING, else an in-radius entry in IDLE
(R64). -/
def victim (ns : List Neighbour) : Option Neighbour :=
  match pickVictim (ns.filter fun n => !n.inRadius && decide (n.phase = .settling)) with
  | some n => some n
  | none => pickVictim (ns.filter fun n => n.inRadius && decide (n.phase = .idle))

/-- Whether a geometry result is affecting. -/
def isAffecting : Option GeometryResult → Bool
  | some (.affecting _ _ _) => true
  | some .notAffecting => false
  | none => false

/-- The entry filter for a newcomer frame (R58). -/
def qualifies (c : Config) (f : Frame) (g : Option GeometryResult) : Bool :=
  inRadius c f.east f.north || (f.hasGeometry && isAffecting g)

/-- The table step (R53, R58 to R65). -/
def tableStep (f : Frame) (arrival : Nat) (g : Option GeometryResult) (s : State) : State :=
  match s.neighbours.find? fun n => decide (n.station = f.station) with
  | some n =>
    if !f.hasGeometry && !inRadius s.cfg f.east f.north then
      s.modNeighbours (removeNeighbour f.station)
    else
      s.modNeighbours (List.map fun m =>
        if m.station = f.station then updateEntry s.cfg f arrival n else m)
  | none =>
    if qualifies s.cfg f g then
      if s.neighbours.length < 48 then
        s.modNeighbours (insertNeighbour (newEntry s.cfg f arrival))
      else
        match victim s.neighbours with
        | some v =>
          s.modNeighbours fun ns =>
            insertNeighbour (newEntry s.cfg f arrival) (removeNeighbour v.station ns)
        | none => raiseFault .tableFull (stationContext f.station) s
    else s

end Sys2Proof.Machine
end

