-- ==== Sys2Proof/Machine/WindowList.lean ====
section
/-! DEFINITION. The window step of an intake completion (R53, R89 to R99). -/

namespace Sys2Proof.Machine

/-- A close time earlier than the open time is set equal to it (R92). -/
def closeAfter (openTime closeTime : Nat) : Nat :=
  if heldTime closeTime < heldTime openTime then openTime else closeTime

/-- A window still has time to run at the completion (R92). -/
def Window.runs (now : Nat) (w : Window) : Bool := decide (now < heldTime w.closeTime)

/-- A window frozen with end = arrival: its open time and T kept, its close time arrival + T + S_w
(R93, R97). -/
def Window.freezeAt (c : Config) (arrival : Nat) (w : Window) : Window :=
  { w with
    state := .frozen
    closeTime := closeAfter w.openTime (later arrival (w.delay + c.wakeSettle)) }

/-- The context of a window lost: its station and move number (R91). -/
def windowContext (w : Window) : FaultContext := ⟨some w.station, some w.move, none⟩

/-- A window is created (R91, R92): not when its close time is at or before the present; in a full
list it evicts the latest-opening window if it opens earlier, else it is discarded, and WINDOW-FULL is
raised with the window lost. -/
def createWindow (w : Window) (s : State) : State :=
  if !w.runs s.now then s
  else if s.windows.length < 32 then s.modWindows (insertWindow w)
  else
    match s.windows.getLast? with
    | none => s.modWindows (insertWindow w)
    | some last =>
      if heldTime w.openTime < heldTime last.openTime then
        raiseFault .windowFull (windowContext last)
          (s.modWindows fun ws => insertWindow w ws.dropLast)
      else raiseFault .windowFull (windowContext w) s

/-- A window takes the place of the window of its key: it is moved to the place its open time gives,
or removed if its close time is at or before the present (R91, R92). -/
def replaceWindow (w : Window) (s : State) : State :=
  s.modWindows fun ws =>
    let ws' := removeWindow w.station w.move ws
    if w.runs s.now then insertWindow w ws' else ws'

/-- First part of the step for a frame of a move (R93): PROVISIONAL windows of the station's other
moves are removed, LIVE ones frozen with end = arrival, FROZEN ones left. -/
def settleOthers (c : Config) (now arrival station : Nat) (move : Byte) (ws : List Window) :
    List Window :=
  ws.filterMap fun w =>
    if w.station = station ∧ w.move ≠ move then
      match w.state with
      | .provisional => none
      | .live =>
        let w' := w.freezeAt c arrival
        if w'.runs now then some w' else none
      | .frozen => some w
    else some w

/-- The step for a frame in IDLE or INTENT, over all the station's windows (R97). -/
def settleStation (c : Config) (now arrival station : Nat) (ws : List Window) : List Window :=
  ws.filterMap fun w =>
    if w.station = station then
      match w.state with
      | .provisional => none
      | .live =>
        let w' := w.freezeAt c arrival
        if w'.runs now then some w' else none
      | .frozen => some w
    else some w

/-- The window a COMMITTED frame gives (R94). -/
def committedWindow (c : Config) (f : Frame) (arrival along : Nat) (across : Int) (delay : Nat) :
    Window :=
  let openTime := later arrival delay
  { station := f.station
    move := f.move
    state := .provisional
    openTime := openTime
    closeTime := closeAfter openTime
      (later arrival (f.timeA + moveDuration c (f.toOffset - f.fromOffset) + delay + c.wakeSettle))
    along := along
    across := across
    delay := delay }

/-- The window a MOVING frame gives (R95). -/
def movingWindow (c : Config) (f : Frame) (arrival along : Nat) (across : Int) (delay : Nat) :
    Window :=
  let openTime := later (arrival - f.timeA) delay
  { station := f.station
    move := f.move
    state := .live
    openTime := openTime
    closeTime := closeAfter openTime (later (later arrival f.timeB) (delay + c.wakeSettle))
    along := along
    across := across
    delay := delay }

/-- The window a SETTLING frame gives, from the begin it is to have (R96). -/
def settlingWindow (c : Config) (f : Frame) (arrival start along : Nat) (across : Int)
    (delay : Nat) : Window :=
  let openTime := later start delay
  { station := f.station
    move := f.move
    state := .frozen
    openTime := openTime
    closeTime := closeAfter openTime (later (arrival - f.timeA) (delay + c.wakeSettle))
    along := along
    across := across
    delay := delay }

/-- The begin of a window: its open time minus its held T (R90). -/
def Window.begins (w : Window) : Nat := heldTime w.openTime - w.delay

/-- Second part of the step for an affecting frame, by phase and by the window held for the key
(R94 to R96). A SETTLING frame with no window for its key gives begin = end − D_move; where that would
fall below 0, which R92 says of converted times alone, the begin is 0: the model's choice, log entry
30. -/
def keyStep (f : Frame) (arrival along : Nat) (across : Int) (delay : Nat) (s : State) : State :=
  let held := s.windows.find? fun w => w.hasKey f.station f.move
  match f.phase, held with
  | .committed, none => createWindow (committedWindow s.cfg f arrival along across delay) s
  | .committed, some _ => replaceWindow (committedWindow s.cfg f arrival along across delay) s
  | .moving, none => createWindow (movingWindow s.cfg f arrival along across delay) s
  | .moving, some _ => replaceWindow (movingWindow s.cfg f arrival along across delay) s
  | .settling, none =>
    createWindow
      (settlingWindow s.cfg f arrival
        (arrival - f.timeA - moveDuration s.cfg (f.toOffset - f.fromOffset)) along across delay) s
  | .settling, some w =>
    replaceWindow (settlingWindow s.cfg f arrival w.begins along across delay) s
  | .idle, _ => s
  | .intent, _ => s

/-- The window step (R93 to R97), with the map re-derived once after it (R102). -/
def windowStep (f : Frame) (arrival : Nat) (g : Option GeometryResult) (s : State) : State :=
  rederive <|
    if f.hasGeometry then
      let s' := s.modWindows (settleOthers s.cfg s.now arrival f.station f.move)
      match g with
      | some (.affecting along across delay) => keyStep f arrival along across delay s'
      | some .notAffecting => s'.modWindows (removeWindow f.station f.move)
      | none => s'
    else s.modWindows (settleStation s.cfg s.now arrival f.station)

end Sys2Proof.Machine
end

