-- ==== Sys2Proof/Machine/LinkOps.lean ====
section
/-! DEFINITION. The array link's changes of state, the frame intake's start, the end of an echo
check, and the final announcement of STOP (R18 to R23, R30 to R38, R51, R193). -/

namespace Sys2Proof.Machine

/-- A change of link state pushes the trail; the same state again changes nothing (R19). -/
def Trail.push (n : LinkState) (t : Trail) : Trail :=
  if t.current = n then t else ⟨n, t.current, t.first, t.second⟩

/-- The attempt in progress, if any, is abandoned: the transmit stage is IDLE (R18). -/
def Link.abandon (l : Link) : Link := { l with stage := .idle, sent := [], sentCurrent := false }

/-! ### Entering the link states -/

/-- Entry to LISTEN with a full listen period; with LSD already deasserted the signal-loss timer is
started (R20, R21). -/
def Link.enterListen (c : Config) (now : Nat) (light : Bool) (l : Link) : Link :=
  { l with
    trail := l.trail.push .listen
    listenTimer := some (later now (listenPeriod c))
    signalLoss := if light then none else some (later now 10) }

/-- Entry to READY (R20, R23): the count becomes 0, an attempt to send the slot begins, and the LINK
source is reported clear. -/
def enterReady (s : State) : State :=
  reportClear .link <| s.modLink fun l =>
    { l with
      trail := l.trail.push .ready
      listenTimer := none
      checkTimer := none
      heardOther := false
      collisions := 0 }.beginAttempt s.pins.laneActive

/-- Entry to CHECK at the eighth collision (R23, R32): the transmitter idle, the refresh timer
stopped, a CHECK period begun; the LINK source is set and ECHO-LOSS raised. -/
def enterCheck (s : State) : State :=
  raiseFault .echoLoss ⟨none, some s.builder.move, none⟩ <| reportSet .link <| s.modLink fun l =>
    { l.abandon with
      trail := l.trail.push .check
      refresh := none
      heardOther := false
      checkTimer := some (later s.now (listenPeriod s.cfg)) }

/-- Entry to DOWN (R18, R21): the timers stopped, any attempt abandoned, the LINK source set. -/
def enterDown (s : State) : State :=
  reportSet .link <| s.modLink fun l =>
    { l.abandon with
      trail := l.trail.push .down
      listenTimer := none
      checkTimer := none
      refresh := none
      signalLoss := none }

/-- Entry to OFF (R36, R38): timers stopped, the slot emptied, waiting frames discarded. -/
def Link.enterOff (l : Link) : Link :=
  { l.abandon with
    trail := l.trail.push .off
    listenTimer := none
    checkTimer := none
    signalLoss := none
    refresh := none
    heardOther := false
    final := .none
    slot := Slot.empty
    buffer := [] }

/-- The entry to CONFIG, in the same event in which the link enters OFF (R193): the table, the list,
the wind record, the hold set and the STORM latch are cleared, HOLD latched if a source was set, the
map all CLEAR, and the engine at rest (R157). A frame in work is marked, since its completion in CONFIG
changes nothing (R54, log entry 14). -/
def enterConfig (s : State) : State :=
  rederive
    { s with
      part := .config
      link := s.link.enterOff
      neighbours := []
      windows := []
      wind := WindRecord.clear
      attention := { s.attention with
        holdLatched := s.attention.holdLatched || s.holds.held }
      holds := Holds.reset
      queue := []
      builder := { s.builder with refs := RefTimes.none }
      engine := { Engine.reset with lapsedTag := s.engine.lapsedTag, offset := s.engine.offset }
      intake := s.intake.map fun w => { w with void := true } }

/-! ### The final announcement (R37, R50, R193) -/

/-- The final IDLE edition, written with the pending mark even over equal content (R50). The attempt
that sends it is the final attempt, so the write begins none of its own (log entry 13). -/
def Link.writeFinal (e : Edition) (l : Link) : Link :=
  { l with
    slot := { edition := some e, pending := true, confirmed := false }
    sentCurrent := false }

/-- The final announcement is requested (R37, R193). In READY the final attempt begins from DEFER, or
waits for the echo check of the frame in progress; in any other state the link enters OFF at once. -/
def requestFinal (s : State) : State :=
  let s' := s.modLink (Link.writeFinal (content s))
  if s'.link.trail.current = .ready then
    match s'.link.stage with
    | .send | .echoWait => s'.modLink fun l => { l with final := .awaited }
    | .idle | .defer _ | .backoff _ =>
      s'.modLink fun l =>
        { l.abandon with final := .running }.beginAttempt s.pins.laneActive
  else enterConfig s'

/-- STOP work is complete when the engine is IDLE and the PARK latch is clear; the final announcement
is then requested within the event (R156, R192). -/
def checkStopWork (s : State) : State :=
  if s.part = .stopping ∧ s.link.final = .none ∧ s.engine.state = .idle ∧
      s.holds.parkLatch = false then requestFinal s
  else s

/-! ### The end of ECHO-WAIT (R30 to R32, R37) -/

/-- The end of ECHO-WAIT once the final announcement has been requested (R37): after the frame in
progress the final attempt begins; after the final attempt the link enters OFF and the part CONFIG. -/
def endFinal (s : State) : State :=
  match s.link.final with
  | .awaited =>
    s.modLink fun l => { l.abandon with final := .running }.beginAttempt s.pins.laneActive
  | .running => enterConfig s
  | .none => s

/-- A confirmation reported to the engine (R48, R140): in INTENT, with the INTENT edition current, it
sets the echo flag and is an evaluation point; in another phase the engine takes no action. -/
def confirmation (s : State) : State :=
  if s.engine.state = .intent ∧ (s.link.slot.edition.map Edition.phase) = some .intent then
    evalPoint false (s.modEngine fun e => { e with echo := true })
  else s

/-- A good echo (R30): the count becomes 0 and the attempt ends. The current edition is confirmed and
the confirmation reported, or, if the slot was written since, its edition is pending and a new
attempt begins at once. -/
def goodEcho (s : State) : State :=
  let s0 := s.modLink fun l => { l with collisions := 0 }
  if s.link.sentCurrent then
    let s1 := s0.modLink fun l =>
      { l.abandon with slot := { l.slot with confirmed := true } }
    let s2 := if s.link.slot.confirmed then s1 else confirmation s1
    if s.link.final = .none then s2 else endFinal s2
  else
    let s1 := s0.modLink fun l => { l with slot := { l.slot with pending := true } }
    if s.link.final = .none then
      s1.modLink fun l => l.abandon.beginAttempt s.pins.laneActive
    else endFinal s1

/-- The back-off draw for a count k: 0..(2^min(k,5) − 1) slots of 250 µs (R31). -/
def Link.enterBackoff (l : Link) : Link :=
  { l.abandon with
    jitter := jitterNext l.jitter
    stage := .backoff (250 * jitterYield (jitterNext l.jitter) (2 ^ min l.collisions 5 - 1)) }

/-- A collision (R31, R32, R37): the count is incremented, held in 0..8 (log entry 13). After the
request for the final announcement no back-off, resend or CHECK follows, and no ECHO-LOSS is raised for
the final attempt (R37). Nor is it raised when the frame already in progress at the request is the
eighth collision: R37 leaves that open, and this is the model's reading (log entry 29). -/
def collision (s : State) : State :=
  let s' := s.modLink fun l => { l with collisions := min 8 (l.collisions + 1) }
  if s.link.final = .none then
    if s'.link.collisions = 8 then enterCheck s' else s'.modLink Link.enterBackoff
  else endFinal s'

/-! ### The intake's start -/

/-- The idle intake takes the oldest waiting frame and becomes BUSY (R36, R51). -/
def takeFrame (s : State) : State :=
  match s.intake, s.link.buffer with
  | none, a :: rest =>
    (s.modLink fun l => { l with buffer := rest }).withIntake (some ⟨a.frame, a.arrival, none, false⟩)
  | _, _ => s

/-- Whether the receive path takes frames in a link state (R18). -/
def LinkState.receives : LinkState → Bool
  | .off => false
  | .listen => true
  | .ready => true
  | .check => true
  | .down => false

end Sys2Proof.Machine
end

