-- ==== Sys2Proof/Machine/PortOps.lean ====
section
/-! DEFINITION. The controller port (R188, R189): taking a command, its answer, and the answer
records of the reading commands. -/

namespace Sys2Proof.Machine

/-- The answer record formed for a taken command: its code and, after OK, its fields (R188). -/
def reply (a : Answer) (fields : List Byte) (s : State) : State :=
  s.modPort fun _ => ⟨.taken, a.code :: fields⟩

/-- A refused command: the answer code alone, and nothing else changes (R188, R189). -/
def refuse (a : Answer) (s : State) : State := reply a [] s

/-- OK with no fields. -/
def answerOk (s : State) : State := reply .ok [] s

/-- A command record reaches its last bit: the command is taken, with effect `t`. One transaction
carries one command, so after it SDI is ignored until SEL rises (R188); with SEL low since the release
of RESET no transaction is taken until SEL has risen (R194). -/
def portCommand (s t : State) : Result :=
  match s.port.phase with
  | .noTransaction => .next t
  | .taken | .blocked => .next s

/-- The byte that SDO carries in the k-th byte time after the last bit of a taken command: two
turnaround bytes of zeros, the answer record, then zeros until SEL rises (R188); none while SDO is
released. With SEL low since the release of RESET there is no answer to carry (log entry 19). -/
def Port.sdo (p : Port) (k : Nat) : Option Byte :=
  match p.phase with
  | .noTransaction => none
  | .taken => some ((0 :: 0 :: p.answer).getD k 0)
  | .blocked => none

/-- The map as four bytes: bin 0 in bit 0 of the last, 1 is BUSY (R195). -/
def mapBits : List Bin → Nat
  | [] => 0
  | b :: rest => (match b with | .clear => 0 | .busy => 1) + 2 * mapBits rest

/-- next-opportunity for the head, formed for the request at the head of the queue in whatever engine
state it stands; 32 with the queue empty (R108). -/
def headOpportunity (s : State) : Nat :=
  match s.queue with
  | [] => 32
  | r :: _ =>
    nextOpportunity (runLength s.cfg s.engine.offset (requestTarget s.cfg s.engine.offset r))
      s.quietMap.bins

/-- The status record, 67 bytes (R195). -/
def statusBytes (s : State) : List Byte :=
  byteOf s.part.code ++ byteOf s.engine.state.code ++ optTagBytes (s.queue.head?.map Request.tag) ++
  optGrantBytes s.engine.grant ++ byteOf s.builder.move.toNat ++ optTagBytes s.engine.lapsedTag ++
  signedBytes 2 s.engine.offset ++ byteOf s.holds.bits ++ byteOf s.link.trail.current.code ++
  byteOf s.link.trail.first.code ++ byteOf s.link.trail.second.code ++
  byteOf s.link.trail.third.code ++ byteOf s.link.collisions ++ byteOf s.neighbours.length ++
  byteOf (activeCount s.neighbours) ++ byteOf s.windows.length ++
  beBytes 4 (mapBits s.quietMap.bins) ++ byteOf (firstClear s.quietMap.bins) ++
  byteOf (runEnd s.quietMap.bins) ++ byteOf (headOpportunity s) ++ byteOf s.queue.length ++
  byteOf s.log.records.length ++ flagByte s.log.lost ++ beBytes 2 s.recorder.status.toNat ++
  optFirstFaultBytes s.recorder.first ++
  byteOf (causeBits s + (if s.attention.sweepExtended then 64 else 0) +
    (if s.attention.sweepUnderrun then 128 else 0)) ++
  beBytes 2 s.wind.direction ++ beBytes 2 s.wind.speed ++
  flagByte (decide (s.wind.condition ≠ .fresh)) ++ timeBytes s.now

/-- The answer fields of READ NEIGHBOURS: the count, and up to four entries from a position (R70). -/
def neighbourBytes (first : Nat) (s : State) : List Byte :=
  byteOf s.neighbours.length ++ ((s.neighbours.drop first).take 4).flatMap Neighbour.bytes

/-- The answer fields of READ WINDOWS (R109). -/
def windowBytes (first : Nat) (s : State) : List Byte :=
  byteOf s.windows.length ++ ((s.windows.drop first).take 4).flatMap (Window.bytes s.now)

end Sys2Proof.Machine
end

