-- ==== Sys2Proof/Machine/EngineEvents.lean ====
section
/-! DEFINITION. The grant handshake and the engine's timers: BEGUN, ENDED and the expiries of the
hold-off, yield pause, start timeout, overrun and settle timers (chapter 08, R169 to R173). -/

namespace Sys2Proof.Machine

/-- The tag of the grant record, if a grant is present (R148). -/
def grantTag (s : State) : Option W16 := s.engine.grant.map Grant.tag

/-- The overrun timer's length: D_move + ceil(D_move × m / 100) (R152). -/
def overrunLength (c : Config) (duration : Nat) : Nat :=
  duration + ceilDiv (duration * c.overrunMargin) 100

/-- Entry to MOVING (R152), for normal work or the park. -/
def enterMoving (g : Grant) (s : State) : State :=
  let s' := match s.engine.work with
    | .request => headAt .moving s
    | .none | .park => s
  announce <|
    (s'.modBuilder fun b =>
      { b with refs :=
        { b.refs with begun := some s.now, expectedEnd := some (later s.now g.duration) } }).modEngine
      fun e =>
        { e with
          state := .moving
          startTimeout := none
          overrun := some (later s.now (overrunLength s.cfg g.duration)) }

/-- BEGUN (R151). -/
def execBegun (tag : W16) (s : State) : Result :=
  portCommand s <|
    match s.part with
    | .config => refuse .wrongState s
    | .running | .stopping =>
      match s.engine.state, s.engine.grant with
      | .granted, some g =>
        if tag = g.tag then answerOk (enterMoving g s)
        else if s.engine.lapsedTag = some tag then refuse .staleGrant s
        else refuse .noGrant s
      | _, _ =>
        if s.engine.lapsedTag = some tag then refuse .staleGrant s else refuse .noGrant s

/-- A sweep at its step's ENDED (steps 1 and 2 of R125): steps done and remaining counted, the confirm
flag and the mark of a park cleared, the pace deadline set. -/
def stepEnded (now : Nat) (w : SweepJob) : SweepJob :=
  { w with
    stepsDone := min 65535 (w.stepsDone + 1)
    remaining := if w.count = 0 then w.remaining else w.remaining - 1
    confirm := false
    afterPark := false
    paceDeadline := match w.pacing with
      | .released => w.paceDeadline
      | .paced interval _ => some (later now interval) }

/-- The front request at the ENDED of its move (step 4 of R154): a MOVE completes DONE; a sweep is
updated and completes CANCELLED or SWEEP-DONE, takes up its extension, or stays with its yield count
at 0 (R125, R126). -/
def finishStep (s : State) : State :=
  let gone := s.modEngine fun e => { e with work := .none }
  match s.queue with
  | [] => gone
  | r :: rest =>
    match r.job with
    | .move _ => completeRequest r .done gone
    | .sweep w =>
      let w1 := stepEnded s.now w
      let r1 := { r with job := .sweep w1 }
      if w.cancelPending then completeRequest r1 .cancelled gone
      else if w.count ≠ 0 ∧ w1.remaining = 0 then
        if 0 < w.extension then
          (s.modQueue fun _ =>
            { r with
              job := .sweep { w1 with remaining := w.extension, extension := 0 }
              yields := 0 } :: rest).modAttention
            fun a => { a with sweepExtended := true }
        else completeRequest r1 .sweepDone gone
      else s.modQueue fun _ => { r1 with yields := 0 } :: rest

/-- Steps 1 to 3 of R154: the clamped achieved offset becomes the current offset, the overrun timer is
stopped and the ENDED time recorded, and an offset outside the tolerance raises BAD-ENDED. -/
def reachOffset (achieved : Int) (g : Grant) (s : State) : State :=
  let s' := (s.modEngine fun e => { e with offset := achieved, overrun := none }).modBuilder fun b =>
    { b with refs := { b.refs with ended := some s.now } }
  if s.cfg.endedTolerance < (achieved - g.target).natAbs then
    raiseFault .badEnded (tagContext g.tag) s'
  else s'

/-- The effects of an ENDED that is taken (R154, R170, R173). -/
def endMove (achieved : Int) (g : Grant) (s : State) : State :=
  let s1 := reachOffset achieved g s
  checkStopWork <|
    match s.engine.work with
    | .park => afterEnded (finishPark s1)
    | .request | .none =>
      let s2 := finishStep s1
      if s2.holds.parkLatch then parkAtEnded s2 else afterEnded s2

/-- ENDED (R154). -/
def execEnded (tag achieved : W16) (s : State) : Result :=
  portCommand s <|
    match s.part with
    | .config => refuse .wrongState s
    | .running | .stopping =>
      match s.engine.state, s.engine.grant with
      | .moving, some g =>
        if tag = g.tag then answerOk (endMove (clampOffset achieved.toInt) g s)
        else refuse .noGrant s
      | _, _ => refuse .noGrant s

/-- HOLD_OFF_EXPIRY (R145): the expired marker is set and, with the echo flag set, the commit test is
made. -/
def execHoldOffExpiry (s : State) : Result :=
  .next <|
    if Timer.due s.engine.holdOff s.now ∧ s.engine.state = .intent then
      let s' := s.modEngine fun e => { e with expired := true, holdOff := none }
      if s.engine.echo then commitTest s' else s'
    else s

/-- YIELD_PAUSE_EXPIRY (R144): in WAITING the head is evaluated, in any other state nothing more. -/
def execYieldPauseExpiry (s : State) : Result :=
  .next <|
    if Timer.due s.engine.yieldPause s.now then
      evaluate (s.modEngine fun e => { e with yieldPause := none })
    else s

/-- START_TIMEOUT_EXPIRY (R149): NO-START is raised, the grant lapses and the head completes NO-START.
If NO-START is FATAL, the HALT source it sets has already lapsed the grant (R160). -/
def execStartTimeoutExpiry (s : State) : Result :=
  .next <|
    match s.engine.state, s.engine.work, s.engine.grant, s.queue with
    | .granted, .request, some g, r :: _ =>
      if Timer.due s.engine.startTimeout s.now then
        let s1 := raiseFault .noStart (tagContext g.tag) s
        let s2 := if s1.engine.state = .granted then lapse s1 else s1
        takeNext (completeRequest r .noStart s2)
      else s
    | _, _, _, _ => s

/-- OVERRUN_EXPIRY (R153): MOVE-OVERRUN is raised; the engine stays in MOVING. -/
def execOverrunExpiry (s : State) : Result :=
  .next <|
    match s.engine.state, s.engine.grant with
    | .moving, some g =>
      if Timer.due s.engine.overrun s.now then
        raiseFault .moveOverrun (tagContext g.tag)
          (s.modEngine fun e => { e with overrun := none })
      else s
    | _, _ => s

/-- SETTLE_EXPIRY (R155). -/
def execSettleExpiry (s : State) : Result :=
  .next <|
    if Timer.due s.engine.settle s.now ∧ s.engine.state = .settling then endSettling s else s

end Sys2Proof.Machine
end

