-- ==== Sys2Proof/Machine/PartControl.lean ====
section
/-! DEFINITION. Reset, time, CONFIGURE, START, STOP, UNKNOWN_CODE, TRANSACTION_END
(chapter 11, R1, R188 to R194). -/

namespace Sys2Proof.Machine

/-- HARDWARE_RESET (R194): every element takes its reset value. The queue of waiting commands and the
levels of the lines belong to the outside (log entry 5); with SEL low at the release the port is
blocked. -/
def execHardwareReset (selLow : Bool) (s : State) : Result :=
  .next { State.reset with
    pending := s.pending
    pins := s.pins
    port := ⟨if selLow then .blocked else .noTransaction, []⟩ }

/-- LOCAL_TIME_TICK (R1). -/
def execLocalTimeTick (s : State) : Result := .next (s.withNow (min (s.now + 1) timeMax))

/-- The effects of a stored record that act when CONFIGURE is taken (R190): a changed P code re-aligns
the map (R110); HOLD with fewer than 16 records clears LOST (R180). The causes and ATTN follow the
record as functions of the state (R185). -/
def applyConfig (c : Config) (s : State) : State :=
  let s1 := s.withConfig c
  let s2 := if s.cfg.periodCode = c.periodCode then s1 else alignMap s1
  if c.fullPolicy = .hold ∧ s.log.records.length < 16 then
    s2.modLog fun l => { l with lost := false }
  else s2

/-- CONFIGURE (R190). -/
def execConfigure (r : ConfigWire) (s : State) : Result :=
  portCommand s <|
    match s.part with
    | .config =>
      let c := storeConfig r s.cfg
      reply .ok (configBytes c) (applyConfig c s)
    | .running | .stopping => refuse .wrongState s

/-- Whether a level sense finds the STORM line active (R163). -/
def stormActive (s : State) : Bool :=
  match s.cfg.stormSense with
  | .high => s.pins.storm
  | .low => !s.pins.storm
  | .rising | .falling => false

/-- The link at START (R20, R27). -/
def Link.start (c : Config) (now : Nat) (light : Bool) (l : Link) : Link :=
  { l.enterListen c now light with
    jitter := BitVec.ofNat 16 (c.station * 2 + 1)
    collisions := 0
    buffer := []
    heardOther := false }

/-- The effects of an accepted START (R191): RUNNING, the current offset, the intake IDLE (R71, log
entry 14), the link in LISTEN, the first IDLE edition, the sources WIND and LINK, and STORM by a level
sense. -/
def startPart (offset : Int) (s : State) : State :=
  let s0 := ((s.withPart .running).withIntake none).modEngine fun e =>
    { e with offset := clampOffset offset }
  let s1 := (s0.modLink (Link.start s.cfg s.now s.pins.light)).modBuilder fun b =>
    { b with claimAge := 0 }
  let s2 := s1.modLink (Link.write s.pins.laneActive true (content s1))
  let s3 := reportSet .link (reportSet .wind s2)
  if stormActive s then reportSet .storm (s3.modHolds fun h => { h with stormLatch := true }) else s3

/-- START (R191). -/
def execStart (offset : W16) (s : State) : Result :=
  portCommand s <|
    match s.part with
    | .config =>
      if s.cfg.station = 0 then refuse .noIdentity s else answerOk (startPart offset.toInt s)
    | .running | .stopping => refuse .wrongState s

/-- The requests that stay at a STOP: those in MOVING, a sweep marked cancel-pending (R133). -/
def keptAtStop (q : List Request) : List Request :=
  (q.filter fun r => decide (r.position = .moving)).map
    (Request.modSweep fun w => { w with cancelPending := true })

/-- The engine's part of a STOP (R156): an intent is withdrawn, a normal grant lapses, settling ends;
a move in MOVING and the park run on. The yield pause is stopped in every state. -/
def stopEngine (s : State) : State :=
  let q := keptAtStop s.queue
  let s1 : State :=
    match s.engine.state, s.engine.work with
    | .intent, _ => withdraw s
    | .granted, .request => lapse s
    | _, _ => s
  let s2 := (s1.modQueue fun _ => q).modEngine fun e => { e with yieldPause := none }
  match s.engine.state, s.engine.work with
  | .moving, _ => s2
  | .granted, .park => s2
  | .settling, _ =>
    announce <| s2.modEngine fun e =>
      { e with state := .idle, work := .none, settle := none, grant := none }
  | .idle, _ | .waiting, _ | .intent, _ | .granted, _ =>
    s2.modEngine fun e => { e with state := .idle, work := .none }

/-- STOP (R192): the answer gives the number of requests removed, 0 to 8. -/
def execStop (s : State) : Result :=
  portCommand s <|
    match s.part with
    | .running =>
      let removed := s.queue.length - (keptAtStop s.queue).length
      reply .ok (byteOf removed) (checkStopWork (stopEngine (s.withPart .stopping)))
    | .config | .stopping => refuse .wrongState s

/-- UNKNOWN_CODE (R189): BAD-COMMAND, and nothing changes, in every part state. -/
def execUnknownCode (_code : Byte) (s : State) : Result := portCommand s (refuse .badCommand s)

/-- TRANSACTION_END (R188, R194): SEL rises; a record cut short is discarded with nothing taken, the
rest of an answer is lost, and a port blocked since reset can take a transaction again. -/
def execTransactionEnd (s : State) : Result := .next (s.modPort fun _ => ⟨.noTransaction, []⟩)

end Sys2Proof.Machine
end

