-- ==== Sys2Proof/Machine/HoldEvents.lean ====
section
/-! DEFINITION. HOLD, RELEASE, CLEAR_HOLD, RESUME, the STORM and PARK lines and GUARD_AFTER_START
(chapter 09, R178, R184). -/

namespace Sys2Proof.Machine

/-- HOLD (R165). -/
def execHold (s : State) : Result :=
  portCommand s <|
    match s.part with
    | .config => refuse .wrongState s
    | .running | .stopping => answerOk (reportSet .soft s)

/-- RELEASE (R165). -/
def execRelease (s : State) : Result :=
  portCommand s <|
    match s.part with
    | .config => refuse .wrongState s
    | .running | .stopping => answerOk (reportClear .soft s)

/-- CLEAR HOLD STORM (R164): the latch and the source are cleared, unless an observed level sense
finds the line active, which sets the latch again within the command: then nothing changes. -/
def clearStorm (s : State) : State :=
  if s.holds.stormLatch = false ∨ (linesObserved s = true ∧ stormActive s = true) then s
  else reportClear .storm (s.modHolds fun h => { h with stormLatch := false })

/-- CLEAR_HOLD (R164): STORM alone can be cleared. -/
def execClearHold (source : Byte) (s : State) : Result :=
  portCommand s <|
    match s.part with
    | .config => refuse .wrongState s
    | .running | .stopping =>
      if HoldSource.ofCode source = some .storm then answerOk (clearStorm s) else refuse .badValue s

/-- RESUME (R184): refused while a FATAL kind stands in the fault status. -/
def execResume (s : State) : Result :=
  portCommand s <|
    match s.part with
    | .config => refuse .wrongState s
    | .running | .stopping =>
      if s.recorder.status &&& s.cfg.faultSeverities ≠ 0 then refuse .faultPending s
      else answerOk (reportClear .halt s)

/-- Whether a change of the STORM line to a level sets the latch (R163). -/
def stormSets (sense : StormSense) (high : Bool) : Bool :=
  match sense with
  | .high | .rising => high
  | .low | .falling => !high

/-- STORM_LINE_EVENT (R163): the line takes a new level; while it is observed the sense decides
whether the latch is set. An event with the level already held is no change (log entry 3). -/
def execStormLineEvent (high : Bool) (s : State) : Result :=
  .next <|
    if s.pins.storm = high then s
    else
      let s' := s.modPins fun p => { p with storm := high }
      if linesObserved s && stormSets s.cfg.stormSense high then
        reportSet .storm (s'.modHolds fun h => { h with stormLatch := true })
      else s'

/-- PARK_FALLING_EDGE (R166): observed with the latch clear, it sets the latch and serves the park in
the same event; else it is ignored. -/
def execParkFallingEdge (s : State) : Result :=
  .next <|
    if linesObserved s = true ∧ s.holds.parkLatch = false then checkStopWork (servePark s) else s

/-- GUARD_AFTER_START (R178): under the HOLD policy with 15 or more records the GUARD source is set. -/
def execGuardAfterStart (s : State) : Result := .next (guardRise s)

end Sys2Proof.Machine
end

