-- ==== Sys2Proof/Machine/IntakeEvents.lean ====
section
/-! DEFINITION. The frame intake, the neighbour table's expiries, the window closes and the bin
boundary (chapters 04 and 06). -/

namespace Sys2Proof.Machine

/-- GEOMETRY_POINT (R52, R72): for a frame in work in COMMITTED, MOVING or SETTLING the unit computes,
once, with the wind then held (R13). A frame marked by the entry to CONFIG has no computation
(R87). -/
def execGeometryPoint (s : State) : Result :=
  .next <|
    match s.intake with
    | some w =>
      if w.frame.hasGeometry && w.geometry.isNone && !w.void then
        s.withIntake (some { w with
          geometry := some (wakeGeometry s.cfg s.wind.direction s.wind.speed w.frame) })
      else s
    | none => s

/-- A frame's completion waits for its geometry point (R52, log entry 23). -/
def InWork.complete (w : InWork) : Bool := w.void || !w.frame.hasGeometry || w.geometry.isSome

/-- INTAKE_COMPLETION (R53): table step, window step with the map, report; then the next waiting frame
is taken. A frame that was in work at the entry to CONFIG changes nothing (R54). -/
def execIntakeCompletion (s : State) : Result :=
  .next <|
    match s.intake with
    | some w =>
      if w.complete then
        let s' := s.withIntake none
        takeFrame <|
          if w.void then s'
          else
            evalPoint true <| windowStep w.frame w.arrival w.geometry <|
              tableStep w.frame w.arrival w.geometry s'
      else s
    | none => s

/-- ENTRY_EXPIRY (R62): the entry is removed and the counts are offered to the engine. -/
def execEntryExpiry (station : Nat) (s : State) : Result :=
  .next <|
    match s.neighbours.find? fun n => decide (n.station = station) with
    | some n =>
      if n.expiry ≤ s.now then evalPoint false (s.modNeighbours (removeNeighbour station)) else s
    | none => s

/-- WINDOW_CLOSE (R98): the window is removed, the map re-derived and offered to the engine (R102). -/
def execWindowClose (station : Nat) (move : Byte) (s : State) : Result :=
  .next <|
    match s.windows.find? fun w => w.hasKey station move with
    | some w =>
      if w.closeTime ≤ s.now then
        evalPoint false (rederive (s.modWindows (removeWindow station move)))
      else s
    | none => s

/-- BIN_BOUNDARY (R100): bin 0 advances by one period and the map is re-derived and offered to the
engine, in CONFIG without an offer (R102). -/
def execBinBoundary (s : State) : Result :=
  .next <|
    if s.quietMap.boundary ≤ s.now then
      let p := binPeriod s.cfg
      let s' := rederive <| s.modMap fun m =>
        { m with base := m.base + p, boundary := later (m.base + p) p }
      if s.part = .config then s' else evalPoint false s'
    else s

end Sys2Proof.Machine
end

