-- ==== Sys2Proof/Machine/LinkEvents.lean ====
section
/-! DEFINITION. The array link's events: light, lane, frames, transmit stages, link timers
(chapter 02). -/

namespace Sys2Proof.Machine

/-- LSD_DEASSERTED (R21): in LISTEN, READY and CHECK the signal-loss timer of 10 ds is started. -/
def execLsdDeasserted (s : State) : Result :=
  .next <|
    if s.pins.light then
      let s' := s.modPins fun p => { p with light := false }
      if s.link.trail.current.receives then
        s'.modLink fun l => { l with signalLoss := some (later s.now 10) }
      else s'
    else s

/-- LSD_ASSERTED (R21): in LISTEN, READY and CHECK the signal-loss timer is stopped; from DOWN the
link enters LISTEN with a full listen period. -/
def execLsdAsserted (s : State) : Result :=
  .next <|
    if s.pins.light then s
    else
      let s' := s.modPins fun p => { p with light := true }
      match s.link.trail.current with
      | .listen | .ready | .check => s'.modLink fun l => { l with signalLoss := none }
      | .down => s'.modLink fun l => l.enterListen s.cfg s.now true
      | .off => s'

/-- A well-formed own-number frame (R35): in ECHO-WAIT it goes to the echo check, good when all 19
bytes equal those sent (R30), else a collision (R31); at any other time it raises
DUPLICATE-STATION. -/
def ownFrame (bytes : List Byte) (s : State) : State :=
  match s.link.stage with
  | .echoWait => if bytes = s.link.sent then goodEcho s else collision s
  | .idle | .defer _ | .send | .backoff _ =>
    raiseFault .duplicateStation (stationContext s.cfg.station) s

/-- A well-formed frame of another station (R34, R36): noted in CHECK; it joins the buffer, whence the
idle intake takes it at once, or is dropped with RECEIVE-OVERRUN when four wait. -/
def otherFrame (f : Frame) (s : State) : State :=
  let s' := s.modLink fun l =>
    { l with heardOther := l.heardOther || decide (l.trail.current = .check) }
  if 4 ≤ s.link.buffer.length then raiseFault .receiveOverrun noContext s'
  else takeFrame (s'.modLink fun l => { l with buffer := l.buffer ++ [⟨f, s.now⟩] })

/-- FRAME_RECEIVED (R34). In OFF and DOWN a sequence is ignored (R18); a malformed one, and any while
LSD is deasserted (R17, R21, log entry 9), is discarded. -/
def execFrameReceived (rx : Received) (s : State) : Result :=
  .next <|
    if s.link.trail.current.receives && s.pins.light then
      match rx, wellFormedFrame rx with
      | .delimited bytes, some f =>
        if f.station = s.cfg.station then ownFrame bytes s else otherFrame f s
      | _, _ => s
    else s

/-- LANE_ACTIVITY (R28): a gap in progress is abandoned and the transmitter defers again. -/
def execLaneActivity (s : State) : Result :=
  .next <|
    let s' := s.modPins fun p => { p with laneActive := true }
    match s.link.stage with
    | .defer _ => s'.modLink fun l => { l with stage := .defer none }
    | .idle | .send | .echoWait | .backoff _ => s'

/-- LANE_QUIET (R28): the activity ends; a deferring transmitter takes a gap draw and the gap begins. -/
def execLaneQuiet (s : State) : Result :=
  .next <|
    let s' := s.modPins fun p => { p with laneActive := false }
    match s.link.stage with
    | .defer none => s'.modLink Link.startGap
    | .defer (some _) | .idle | .send | .echoWait | .backoff _ => s'

/-- GAP_END (R28, R29): a gap has passed with the lane quiet and the transmitter enters SEND. -/
def execGapEnd (s : State) : Result :=
  .next <|
    match s.link.stage with
    | .defer (some _) => s.modLink (Link.enterSend s.cfg s.now)
    | .defer none | .idle | .send | .echoWait | .backoff _ => s

/-- END_OF_TRANSMISSION (R29): the transmitter enters ECHO-WAIT. -/
def execEndOfTransmission (s : State) : Result :=
  .next <|
    match s.link.stage with
    | .send => s.modLink fun l => { l with stage := .echoWait }
    | .idle | .defer _ | .echoWait | .backoff _ => s

/-- ECHO_DEADLINE (R31): no well-formed own-number frame came: a collision. -/
def execEchoDeadline (s : State) : Result :=
  .next <|
    match s.link.stage with
    | .echoWait => collision s
    | .idle | .defer _ | .send | .backoff _ => s

/-- BACKOFF_END (R31): a new attempt begins from DEFER. -/
def execBackoffEnd (s : State) : Result :=
  .next <|
    match s.link.stage with
    | .backoff _ => s.modLink (Link.beginAttempt s.pins.laneActive)
    | .idle | .defer _ | .send | .echoWait => s

/-- LISTEN_TIMER_EXPIRY (R20): the link enters READY. -/
def execListenTimerExpiry (s : State) : Result :=
  .next <|
    if Timer.due s.link.listenTimer s.now ∧ s.link.trail.current = .listen then enterReady s else s

/-- CHECK_PERIOD_EXPIRY (R23): READY if another station was heard, else a further period with the
note cleared. -/
def execCheckPeriodExpiry (s : State) : Result :=
  .next <|
    if Timer.due s.link.checkTimer s.now ∧ s.link.trail.current = .check then
      if s.link.heardOther then enterReady s
      else s.modLink fun l =>
        { l with checkTimer := some (later s.now (listenPeriod s.cfg)), heardOther := false }
    else s

/-- SIGNAL_LOSS_TIMER_EXPIRY (R21): the link enters DOWN; after the request for the final announcement
it then enters OFF at once, and the part CONFIG (R37). -/
def execSignalLossTimerExpiry (s : State) : Result :=
  .next <|
    if Timer.due s.link.signalLoss s.now ∧ s.link.trail.current.receives = true then
      if s.link.final = .none then enterDown s else enterConfig (enterDown s)
    else s

/-- REFRESH_TIMER_EXPIRY (R26): in READY with the transmit stage IDLE an attempt begins; with an
attempt in progress there is no further effect. -/
def execRefreshTimerExpiry (s : State) : Result :=
  .next <|
    if Timer.due s.link.refresh s.now then
      let s' := s.modLink fun l => { l with refresh := none }
      if s.link.trail.current = .ready ∧ s.link.stage = .idle then
        s'.modLink (Link.beginAttempt s.pins.laneActive)
      else s'
    else s

end Sys2Proof.Machine
end

