-- ==== Sys2Proof/Machine/ReportCommands.lean ====
section
/-! DEFINITION. STATUS, TAKE_OUTCOMES, READ_NEIGHBOURS, READ_WINDOWS, CLEAR_FAULTS and CLEAR_LOST
(R70, R109, R177 to R180, R183, R186, R195). -/

namespace Sys2Proof.Machine

/-- STATUS (R195): the record is formed, then the latched causes it reported are cleared (R186). -/
def execStatus (s : State) : Result :=
  portCommand s <| reply .ok (statusBytes s) <| s.modAttention fun _ => ⟨false, false, false⟩

/-- The first request with a deferred completion, front first (R123, R179). -/
def firstDeferred (q : List Request) : Option Request := q.find? Request.deferred

/-- The outcome of a deferred completion: EXPIRED for a MOVE, UNCONFIRMED for a sweep. -/
def deferredOutcome (r : Request) : OutcomeCode :=
  match r.job with
  | .move _ => .expired
  | .sweep _ => .unconfirmed

/-- Step 1 of R179: while 13 or fewer records stand, the flagged request nearest the front completes;
if it was the head, the next head is taken. -/
def completeDeferred : Nat → State → State
  | 0, s => s
  | n + 1, s =>
    if 13 < s.log.records.length then s
    else
      match firstDeferred s.queue with
      | none => s
      | some r =>
        let s' := completeRequest r (deferredOutcome r) s
        completeDeferred n (if r.position = .waiting then takeNext s' else s')

/-- What follows a fall of the log count (R179): under HOLD the deferred completions and the GUARD
report; then, at 13 or fewer, an evaluation point. -/
def afterFall (s : State) : State :=
  let s' := match s.cfg.fullPolicy with
    | .hold => reportGuard (completeDeferred s.queue.length s)
    | .drop => s
  if s'.log.records.length ≤ 13 then evalPoint false s' else s'

/-- The log after the removal of k records: under HOLD, LOST is cleared when fewer than 16 are left
(R177, R180). -/
def takeRecords (k : Nat) (s : State) : State :=
  s.modLog fun l =>
    { records := l.records.drop k
      lost := if s.cfg.fullPolicy = .hold ∧ 0 < k ∧ (l.records.drop k).length < 16 then false
        else l.lost }

/-- The number of records a TAKE OUTCOMES returns (R177). -/
def takeCount (n : Byte) (s : State) : Nat := min (min n.toNat 4) s.log.records.length

/-- TAKE_OUTCOMES (R177): the answer is formed from the log as the take leaves it, before the deferred
completions that follow (R179). -/
def execTakeOutcomes (n : Byte) (s : State) : Result :=
  portCommand s <|
    let k := takeCount n s
    let s' := takeRecords k s
    reply .ok
      (byteOf k ++ byteOf s'.log.records.length ++ flagByte s'.log.lost ++
        (s.log.records.take k).flatMap OutcomeRecord.bytes)
      (if k = 0 then s' else afterFall s')

/-- READ_NEIGHBOURS (R70). -/
def execReadNeighbours (first : Byte) (s : State) : Result :=
  portCommand s <| reply .ok (neighbourBytes first.toNat s) s

/-- READ_WINDOWS (R109). -/
def execReadWindows (first : Byte) (s : State) : Result :=
  portCommand s <| reply .ok (windowBytes first.toNat s) s

/-- CLEAR_FAULTS (R183): the named kinds leave the status; if it becomes empty the first-fault record
is made absent. HALT is not changed. -/
def execClearFaults (kinds : W16) (s : State) : Result :=
  portCommand s <| answerOk <| s.modRecorder fun f =>
    let left := f.status &&& ~~~(kinds.truncate 10)
    { status := left, first := if left = 0 ∧ f.status ≠ 0 then none else f.first }

/-- CLEAR_LOST (R180). -/
def execClearLost (s : State) : Result :=
  portCommand s <| answerOk <| s.modLog fun l => { l with lost := false }

end Sys2Proof.Machine
end

