-- ==== Sys2Proof/Machine/Requests.lean ====
section
/-! DEFINITION. The request block: SUBMIT, SUBMIT_SWEEP, EXTEND, CONFIRM, CANCEL and the waive, expiry
and pace deadlines (chapter 07). -/

namespace Sys2Proof.Machine

/-- An accepted request is placed; the engine takes the front entry if it is IDLE or its NORMAL head
in WAITING was displaced, and the acceptance is an evaluation point (R113, R116, R135). -/
def acceptRequest (r : Request) (s : State) : State :=
  let s' := s.modQueue (placeRequest r)
  evalPoint false <|
    match s.engine.state with
    | .idle => takeHead s'
    | .waiting => takeHead s'
    | .intent | .granted | .moving | .settling => s'

/-- A new request record: all runtime counts 0, all flags clear (R114). -/
def newRequest (tag : W16) (cls : Cls) (job : Job) : Request where
  tag := tag
  cls := cls
  job := job
  position := .queued
  waitStart := none
  yields := 0
  firstGrant := none

/-- The local time of a delay with its present flag (R114). -/
def delayTime (now : Nat) (flag : Byte) (delay : W16) : Option Nat :=
  if flagPresent flag then some (later now delay.toNat) else none

/-- The fields of a submitted MOVE (R114). -/
def moveJob (c : Config) (now : Nat) (target : W16) (waiveFlag : Byte) (waiveDelay : W16)
    (expiryFlag : Byte) (expiryDelay : W16) : MoveJob where
  target := clampLimit c.limit target.toInt
  waiveTime := delayTime now waiveFlag waiveDelay
  waiveRuns := flagPresent waiveFlag
  expiryTime := delayTime now expiryFlag expiryDelay
  expiryRuns := flagPresent expiryFlag
  expiredPending := false

/-- SUBMIT (R114), its checks in their order. -/
def execSubmit (tag : W16) (cls : Byte) (target : W16) (waiveFlag : Byte) (waiveDelay : W16)
    (expiryFlag : Byte) (expiryDelay : W16) (s : State) : Result :=
  portCommand s <|
    match s.part with
    | .config | .stopping => refuse .wrongState s
    | .running =>
      if tag = 0 then refuse .badTag s
      else
        match Cls.ofCode cls with
        | none => refuse .badValue s
        | some k =>
          if (findTag tag s.queue).isSome then refuse .dupTag s
          else if 8 ≤ s.queue.length then refuse .full s
          else answerOk <| acceptRequest
            (newRequest tag k
              (.move (moveJob s.cfg s.now target waiveFlag waiveDelay expiryFlag expiryDelay))) s

/-- The fields of a submitted sweep (R115): the step clamped to ±100, the count to 255, remaining set
to the count. -/
def sweepJob (step count : W16) (pacing : Pacing) : SweepJob where
  step := clampInt (-100) 100 step.toInt
  count := min 255 count.toNat
  pacing := pacing
  stepsDone := 0
  remaining := min 255 count.toNat
  extension := 0
  confirm := false
  afterPark := false
  cancelPending := false
  paceDeadline := none
  unconfirmedPending := false

/-- SUBMIT_SWEEP (R115), checked as SUBMIT with one more refusal after the class check. -/
def execSubmitSweep (tag : W16) (cls : Byte) (step count : W16) (pacing : Byte) (interval : W16)
    (policy : Byte) (s : State) : Result :=
  portCommand s <|
    match s.part with
    | .config | .stopping => refuse .wrongState s
    | .running =>
      if tag = 0 then refuse .badTag s
      else
        match Cls.ofCode cls with
        | none => refuse .badValue s
        | some k =>
          if step = 0 then refuse .badValue s
          else
            match Pacing.ofCodes pacing interval policy with
            | none => refuse .badValue s
            | some p =>
              if (findTag tag s.queue).isSome then refuse .dupTag s
              else if 8 ≤ s.queue.length then refuse .full s
              else answerOk <| acceptRequest (newRequest tag k (.sweep (sweepJob step count p))) s

/-- EXTEND (R127). -/
def execExtend (tag extension : W16) (s : State) : Result :=
  portCommand s <|
    match s.part with
    | .config | .stopping => refuse .wrongState s
    | .running =>
      match findTag tag s.queue with
      | none => refuse .noSuchTag s
      | some r =>
        match r.job with
        | .move _ => refuse .notSweep s
        | .sweep w =>
          if w.count = 0 then refuse .openSweep s
          else if 0 < extension.toNat ∧ 0 < w.extension then refuse .extensionPending s
          else answerOk <| s.modQueue <| modTag tag <|
            Request.modSweep fun v => { v with extension := min 255 extension.toNat }

/-- CONFIRM (R128, R129): the confirm flag of a sweep that is the front entry outside QUEUED is set;
if that makes a step of the head eligible it is an evaluation point. -/
def execConfirm (s : State) : Result :=
  portCommand s <|
    match s.part with
    | .config | .stopping => refuse .wrongState s
    | .running =>
      match s.queue with
      | [] => refuse .notSweep s
      | r :: _ =>
        match r.job with
        | .move _ => refuse .notSweep s
        | .sweep w =>
          if r.position = .queued then refuse .notSweep s
          else
            let s' := s.modQueue (modFront (Request.modSweep fun v => { v with confirm := true }))
            answerOk <|
              if w.stepEligible = ({ w with confirm := true } : SweepJob).stepEligible then s'
              else evalPoint false s'

/-- The removal of a request by CANCEL, by its position (R119, R143, R150). -/
def cancelRequest (r : Request) (s : State) : State :=
  match r.position with
  | .queued => completeRequest r .cancelled s
  | .waiting => takeNext (completeRequest r .cancelled s)
  | .intent => takeNext (completeRequest r .cancelled (withdraw s))
  | .granted => takeNext (completeRequest r .cancelled (lapse s))
  | .moving => s.modQueue <| modTag r.tag <| Request.modSweep fun w => { w with cancelPending := true }
  | .settling =>
    completeRequest r .cancelled (s.modEngine fun e => { e with work := .none })

/-- CANCEL (R119), its checks in the order WRONG-STATE, NO-SUCH-TAG, IN-MOTION, LOG-FULL. -/
def execCancel (tag : W16) (s : State) : Result :=
  portCommand s <|
    match s.part with
    | .config => refuse .wrongState s
    | .running | .stopping =>
      match findTag tag s.queue with
      | none => refuse .noSuchTag s
      | some r =>
        if r.position = .moving ∧ r.isSweep = false then refuse .inMotion s
        else if guardLevel s then refuse .logFull s
        else answerOk (cancelRequest r s)

/-- WAIVE_TIME (R121): the waive time is reached; as head in WAITING or INTENT the request offers an
evaluation point. -/
def execWaiveTime (tag : W16) (s : State) : Result :=
  .next <|
    match findTag tag s.queue with
    | none => s
    | some r =>
      match r.job with
      | .sweep _ => s
      | .move m =>
        if m.waiveRuns && Timer.due m.waiveTime s.now then
          let s' := s.modQueue (modTag tag (Request.modMove fun v => { v with waiveRuns := false }))
          if r.position = .waiting ∨ r.position = .intent then evalPoint false s' else s'
        else s

/-- The expiry of a request by its position (R122, R123). -/
def expireRequest (r : Request) (s : State) : State :=
  match r.position with
  | .intent => takeNext (completeRequest r .expired (withdraw s))
  | .queued | .waiting =>
    if guardLevel s then
      s.modQueue <| modTag r.tag <| Request.modMove fun m =>
        { m with expiryRuns := false, expiredPending := true }
    else if r.position = .waiting then takeNext (completeRequest r .expired s)
    else completeRequest r .expired s
  | .granted | .moving | .settling => s

/-- EXPIRY_TIME (R122). -/
def execExpiryTime (tag : W16) (s : State) : Result :=
  .next <|
    match findTag tag s.queue with
    | none => s
    | some r =>
      match r.job with
      | .sweep _ => s
      | .move m => if m.expiryRuns && Timer.due m.expiryTime s.now then expireRequest r s else s

/-- The SWEEP cause latched as underrun (R131, R185). -/
def latchUnderrun (s : State) : State := s.modAttention fun a => { a with sweepUnderrun := true }

/-- The completion of a sweep under END at an under-run, by its position (R131). -/
def underrunEnd (r : Request) (s : State) : State :=
  match r.position with
  | .settling =>
    completeRequest r .unconfirmed (s.modEngine fun e => { e with work := .none })
  | .queued | .waiting =>
    if guardLevel s then
      s.modQueue (modTag r.tag (Request.modSweep fun w => { w with unconfirmedPending := true }))
    else if r.position = .waiting then takeNext (completeRequest r .unconfirmed s)
    else completeRequest r .unconfirmed s
  | .intent | .granted | .moving => s

/-- A step becomes eligible: an evaluation point if the sweep is head in WAITING (R130). -/
def stepBecomesEligible (r : Request) (s : State) : State :=
  if r.position = .waiting then evalPoint false s else s

/-- The judgement at a pace deadline (R130, R131), the deadline cleared. -/
def judgePace (r : Request) (w : SweepJob) (s : State) : State :=
  let s' := s.modQueue (modTag r.tag (Request.modSweep fun v => { v with paceDeadline := none }))
  match w.pacing with
  | .released => s'
  | .paced interval policy =>
    if w.confirm then stepBecomesEligible r s'
    else
      match policy with
      | .repeatStep => stepBecomesEligible r (latchUnderrun s')
      | .skip =>
        latchUnderrun <| s.modQueue <| modTag r.tag <|
          Request.modSweep fun v => { v with paceDeadline := some (later s.now interval) }
      | .endSweep => underrunEnd r s'

/-- PACE_DEADLINE (R130). -/
def execPaceDeadline (tag : W16) (s : State) : Result :=
  .next <|
    match findTag tag s.queue with
    | none => s
    | some r =>
      match r.job with
      | .move _ => s
      | .sweep w => if Timer.due w.paceDeadline s.now then judgePace r w s else s

end Sys2Proof.Machine
end

