-- ==== Sys2Proof/Machine/WindFamily.lean ====
section
/-! DEFINITION. WIND and the expiry of the wind staleness timer (R9 to R14). -/

namespace Sys2Proof.Machine

/-- The wind record after a WIND (R10). -/
def takeWind (direction speed : W16) (s : State) : State :=
  s.modWind fun _ =>
    { direction := direction.toNat % 1024
      speed := min speed.toNat 400
      condition := .fresh
      staleness := some (later s.now s.cfg.windExpiry) }

/-- WIND (R10). -/
def execWind (direction speed : W16) (s : State) : Result :=
  portCommand s <|
    match s.part with
    | .config => refuse .wrongState s
    | .running | .stopping => answerOk (reportClear .wind (takeWind direction speed s))

/-- WIND_STALENESS_EXPIRY (R11): the record goes STALE with D and U kept, the WIND source is set and
WIND-STALE raised. -/
def execWindStalenessExpiry (s : State) : Result :=
  .next <|
    if Timer.due s.wind.staleness s.now then
      raiseFault .windStale noContext <| reportSet .wind <|
        s.modWind fun w => { w with condition := .stale, staleness := none }
    else s

end Sys2Proof.Machine
end

