-- ==== Sys2Proof/Machine/Dispatch.lean ====
section
/-! DEFINITION. Dispatch: one arm per command, each one direct call of its meaning. -/

namespace Sys2Proof.Machine

def exec (i : Instr) (s : State) : Host.Outcome State Fault Refusal :=
  match i with
  | .hardwareReset selLow => Sys2Proof.Machine.execHardwareReset selLow s
  | .localTimeTick => Sys2Proof.Machine.execLocalTimeTick s
  | .configure r => Sys2Proof.Machine.execConfigure r s
  | .start offset => Sys2Proof.Machine.execStart offset s
  | .stop => Sys2Proof.Machine.execStop s
  | .wind direction speed => Sys2Proof.Machine.execWind direction speed s
  | .submit tag cls target waiveFlag waiveDelay expiryFlag expiryDelay => Sys2Proof.Machine.execSubmit tag cls target waiveFlag waiveDelay expiryFlag expiryDelay s
  | .submitSweep tag cls step count pacing interval policy => Sys2Proof.Machine.execSubmitSweep tag cls step count pacing interval policy s
  | .extend tag extension => Sys2Proof.Machine.execExtend tag extension s
  | .confirm => Sys2Proof.Machine.execConfirm s
  | .cancel tag => Sys2Proof.Machine.execCancel tag s
  | .begun tag => Sys2Proof.Machine.execBegun tag s
  | .ended tag achieved => Sys2Proof.Machine.execEnded tag achieved s
  | .hold => Sys2Proof.Machine.execHold s
  | .release => Sys2Proof.Machine.execRelease s
  | .clearHold source => Sys2Proof.Machine.execClearHold source s
  | .resume => Sys2Proof.Machine.execResume s
  | .status => Sys2Proof.Machine.execStatus s
  | .takeOutcomes n => Sys2Proof.Machine.execTakeOutcomes n s
  | .readNeighbours first => Sys2Proof.Machine.execReadNeighbours first s
  | .readWindows first => Sys2Proof.Machine.execReadWindows first s
  | .clearFaults kinds => Sys2Proof.Machine.execClearFaults kinds s
  | .clearLost => Sys2Proof.Machine.execClearLost s
  | .unknownCode code => Sys2Proof.Machine.execUnknownCode code s
  | .stormLineEvent high => Sys2Proof.Machine.execStormLineEvent high s
  | .parkFallingEdge => Sys2Proof.Machine.execParkFallingEdge s
  | .lsdDeasserted => Sys2Proof.Machine.execLsdDeasserted s
  | .lsdAsserted => Sys2Proof.Machine.execLsdAsserted s
  | .frameReceived rx => Sys2Proof.Machine.execFrameReceived rx s
  | .laneActivity => Sys2Proof.Machine.execLaneActivity s
  | .laneQuiet => Sys2Proof.Machine.execLaneQuiet s
  | .gapEnd => Sys2Proof.Machine.execGapEnd s
  | .endOfTransmission => Sys2Proof.Machine.execEndOfTransmission s
  | .echoDeadline => Sys2Proof.Machine.execEchoDeadline s
  | .backoffEnd => Sys2Proof.Machine.execBackoffEnd s
  | .listenTimerExpiry => Sys2Proof.Machine.execListenTimerExpiry s
  | .checkPeriodExpiry => Sys2Proof.Machine.execCheckPeriodExpiry s
  | .signalLossTimerExpiry => Sys2Proof.Machine.execSignalLossTimerExpiry s
  | .refreshTimerExpiry => Sys2Proof.Machine.execRefreshTimerExpiry s
  | .geometryPoint => Sys2Proof.Machine.execGeometryPoint s
  | .intakeCompletion => Sys2Proof.Machine.execIntakeCompletion s
  | .entryExpiry station => Sys2Proof.Machine.execEntryExpiry station s
  | .windowClose station move => Sys2Proof.Machine.execWindowClose station move s
  | .binBoundary => Sys2Proof.Machine.execBinBoundary s
  | .windStalenessExpiry => Sys2Proof.Machine.execWindStalenessExpiry s
  | .waiveTime tag => Sys2Proof.Machine.execWaiveTime tag s
  | .expiryTime tag => Sys2Proof.Machine.execExpiryTime tag s
  | .paceDeadline tag => Sys2Proof.Machine.execPaceDeadline tag s
  | .holdOffExpiry => Sys2Proof.Machine.execHoldOffExpiry s
  | .yieldPauseExpiry => Sys2Proof.Machine.execYieldPauseExpiry s
  | .startTimeoutExpiry => Sys2Proof.Machine.execStartTimeoutExpiry s
  | .overrunExpiry => Sys2Proof.Machine.execOverrunExpiry s
  | .settleExpiry => Sys2Proof.Machine.execSettleExpiry s
  | .guardAfterStart => Sys2Proof.Machine.execGuardAfterStart s
  | .transactionEnd => Sys2Proof.Machine.execTransactionEnd s

end Sys2Proof.Machine
end

