-- ==== Sys2Proof/Safety.lean ====
section
/-! DEFINITION. The predicates the claims are stated with: the answer on the port, what
a step leaves in the slot, the log and the recorder, and the conditions of a state that every command keeps. -/

namespace Sys2Proof.Machine

/-! ### The port -/

/-- The answer on SDO: the command is taken and `bytes` is its answer record (R188). -/
def State.answering (s : State) (bytes : List Byte) : State := { s with port := ⟨.taken, bytes⟩ }

/-- Whether a command comes at the SPI port; the others are events (R188, R189). -/
def isPortCommand (i : Instr) : Bool :=
  match i with
  | .configure _ | .start _ | .stop | .wind _ _ | .submit _ _ _ _ _ _ _
  | .submitSweep _ _ _ _ _ _ _ | .extend _ _ | .confirm | .cancel _ | .begun _ | .ended _ _
  | .hold | .release | .clearHold _ | .resume | .status | .takeOutcomes _ | .readNeighbours _
  | .readWindows _ | .clearFaults _ | .clearLost | .unknownCode _ => true
  | .hardwareReset _ | .localTimeTick | .stormLineEvent _ | .parkFallingEdge | .lsdDeasserted
  | .lsdAsserted | .frameReceived _ | .laneActivity | .laneQuiet | .gapEnd | .endOfTransmission
  | .echoDeadline | .backoffEnd | .listenTimerExpiry | .checkPeriodExpiry | .signalLossTimerExpiry
  | .refreshTimerExpiry | .geometryPoint | .intakeCompletion | .entryExpiry _ | .windowClose _ _
  | .binBoundary | .windStalenessExpiry | .waiveTime _ | .expiryTime _ | .paceDeadline _
  | .holdOffExpiry | .yieldPauseExpiry | .startTimeoutExpiry | .overrunExpiry | .settleExpiry
  | .guardAfterStart | .transactionEnd => false

/-! ### What a step leaves in the slot, the log, the recorder and the engine -/

/-- The edition of a phase, class, claim age and two offsets: the station and position configured, the
builder's own move number and reference times (R40 to R45). -/
def State.edition (t : State) (p : Phase) (c : Cls) (age : Nat) (fromOffset toOffset : Int) :
    Edition where
  station := t.cfg.station
  phase := p
  cls := c
  move := t.builder.move
  claimAge := age
  east := t.cfg.east
  north := t.cfg.north
  fromOffset := fromOffset
  toOffset := toOffset
  refs := t.builder.refs

/-- The link once an attempt has begun: in DEFER, with a gap draw of the jitter generator, 30 µs and
0..15 times 10 µs, if the lane is quiet (R27, R28). -/
def Link.attempting (laneActive : Bool) (l : Link) : Link :=
  let x := l.jitter * 25173 + 13849
  if laneActive then { l with stage := .defer none }
  else { l with jitter := x, stage := .defer (some (30 + 10 * (x.toNat * 16 / 65536))) }

/-- The link after a write with the pending mark (R24): a new edition, not confirmed, and in READY with
the transmit stage IDLE an attempt begun at once (R33). -/
def Link.sendsAnew (laneActive : Bool) (e : Edition) (l : Link) : Link :=
  let written := { l with slot := ⟨some e, true, false⟩, sentCurrent := false }
  if l.trail.current = .ready ∧ l.stage = .idle then written.attempting laneActive else written

/-- The one write of the builder between `s` and `t` (R47): with another phase or offset a new edition
marked pending; with another class, move number or claim age a new edition that keeps the pending mark
as it is; with every field the same none. Of the link nothing else changes. -/
def Announced (s t : State) (p : Phase) (c : Cls) (age : Nat) (fromOffset toOffset : Int) : Prop :=
  let e := t.edition p c age fromOffset toOffset
  match s.link.slot.edition with
  | none => t.link = s.link.sendsAnew s.pins.laneActive e
  | some old =>
    if old.phase = p ∧ old.fromOffset = fromOffset ∧ old.toOffset = toOffset then
      if old.cls = c ∧ old.move = t.builder.move ∧ old.claimAge = age then t.link = s.link
      else t.link =
        { s.link with slot := ⟨some e, s.link.slot.pending, false⟩, sentCurrent := false }
    else t.link = s.link.sendsAnew s.pins.laneActive e

/-- IDLE announced at the current offset (R42, R43, R45). -/
abbrev AnnouncedIdle (s t : State) : Prop :=
  Announced s t .idle .normal 0 t.engine.offset t.engine.offset

/-- The log after the offer of a record (R176). -/
def OutcomeLog.offered (l : OutcomeLog) (r : OutcomeRecord) : OutcomeLog :=
  if l.lost then l
  else if 16 ≤ l.records.length then { l with lost := true }
  else { l with records := l.records ++ [r] }

/-- Whether an offer finds the log unable to take it (R176). -/
def OutcomeLog.drops (l : OutcomeLog) : Bool := l.lost || decide (16 ≤ l.records.length)

/-- The recorder after the raising of a fault (R182). -/
def Recorder.raised (f : Recorder) (c : Config) (now : Nat) (k : FaultKind) (ctx : FaultContext) :
    Recorder :=
  if hasKind c.faultMasks k then f
  else
    { status := f.status ||| kindBit k
      first := if f.status = 0 then some ⟨k, now, ctx⟩ else f.first }

/-- A fault that is not masked and FATAL sets HALT (R182). -/
def setsHalt (c : Config) (k : FaultKind) : Bool :=
  !hasKind c.faultMasks k && hasKind c.faultSeverities k

/-- The six tests of R137 all pass for the head `r` in WAITING. -/
abbrev PassesTests (s : State) (r : Request) : Prop :=
  s.holds.held = false ∧ r.eligible = true ∧
  requestTarget s.cfg s.engine.offset r ≠ s.engine.offset ∧ s.engine.yieldPause = none ∧
  quietMet s r = true ∧ activeCount s.neighbours < s.cfg.budget

/-- A test of R137 keeps the head `r` in WAITING: a hold, its own eligibility, then for zero-length
work the guard level (R138), for other work the yield pause, the quiet condition or the budget. -/
abbrev HeadStays (s : State) (r : Request) : Prop :=
  s.holds.held = true ∨ r.eligible = false ∨
  (requestTarget s.cfg s.engine.offset r = s.engine.offset ∧ s.cfg.fullPolicy = .hold ∧
    14 ≤ s.log.records.length) ∨
  (requestTarget s.cfg s.engine.offset r ≠ s.engine.offset ∧
    (s.engine.yieldPause ≠ none ∨ quietMet s r = false ∨
      s.cfg.budget ≤ activeCount s.neighbours))

/-- What the entry to INTENT sets for the head `r` (R139, R45); the request is otherwise as it was. -/
def EntersIntent (s t : State) (r : Request) (rest : List Request) : Prop :=
  t.engine = { s.engine with
    state := .intent
    holdOff := some (later s.now s.cfg.holdOff)
    expired := false
    echo := false } ∧
  t.queue = { r with position := .intent } :: rest ∧
  t.builder = { s.builder with
    claimAge := min 255 ((s.now - r.waitStart.getD s.now) / 10)
    refs := { s.builder.refs with holdOff := some (later s.now s.cfg.holdOff) } } ∧
  Announced s t .intent r.cls t.builder.claimAge s.engine.offset s.engine.offset

/-- The giving up of an intent: no yield, no pause, IDLE announced, the head in WAITING (R143). -/
def IntentWithdrawn (s t : State) : Prop :=
  t.engine = { s.engine with state := .waiting, holdOff := none, expired := false, echo := false } ∧
  t.queue = modFront (fun r => { r with position := .waiting }) s.queue ∧
  t.builder = s.builder ∧ AnnouncedIdle s t

/-- The lapse of a normal grant: its tag becomes the last lapsed grant tag, IDLE is announced, the
head stands in WAITING (R150, R160). -/
def GrantLapsed (s t : State) : Prop :=
  t.engine = { s.engine with
    state := .waiting
    startTimeout := none
    lapsedTag := (s.engine.grant.map Grant.tag).or s.engine.lapsedTag
    grant := none } ∧
  t.queue = modFront (fun r => { r with position := .waiting }) s.queue ∧
  t.builder = s.builder ∧ AnnouncedIdle s t

/-- What a source becoming set does to the engine: an intent is withdrawn, a normal grant lapses, any
other work stays as it is (R160). -/
def HoldTakesEffect (s t : State) : Prop :=
  if s.engine.state = .intent then IntentWithdrawn s t
  else if s.engine.state = .granted ∧ s.engine.work = .request then GrantLapsed s t
  else t.engine = s.engine ∧ t.queue = s.queue ∧ t.link = s.link

/-- A held set leaves neither an intent nor a normal grant standing (R160). -/
abbrev HeldBlocks (s : State) : Prop :=
  s.holds.held = true →
    s.engine.state ≠ .intent ∧ ¬(s.engine.state = .granted ∧ s.engine.work = .request)

/-- A source that was clear is set: the HOLD cause is latched and the engine acts on the held set;
nothing else changes (R159, R160, R162). -/
def SourceSet (s t : State) (src : HoldSource) : Prop :=
  t = { s with
    holds := s.holds.put src true
    attention := { s.attention with holdLatched := true }
    engine := t.engine
    queue := t.queue
    link := t.link } ∧
  HoldTakesEffect s t

/-- A timer whose deadline the local time has reached (R2). -/
abbrev Reached (t : Timer) (now : Nat) : Prop := ∃ d ∈ t, d ≤ now

/-- The outcome record of a request that completes (R118). -/
def completionRecord (s : State) (r : Request) (o : OutcomeCode) : OutcomeRecord where
  tag := r.tag
  kind := match r.job with | .move _ => .move | .sweep _ => .sweep
  outcome := o
  finalOffset := s.engine.offset
  wait :=
    match r.waitStart with
    | none => 0
    | some w => min ((match r.firstGrant with | some g => g | none => s.now) - w) 65535
  yields := r.yields
  stepsDone := match r.job with | .move _ => 0 | .sweep w => w.stepsDone

/-- The log has room for a record that neither drops nor sets the GUARD source (R176, R178). -/
abbrev LogHasRoom (s : State) : Prop :=
  s.log.lost = false ∧ s.log.records.length < 16 ∧
  (s.cfg.fullPolicy = .hold → s.log.records.length < 14)

/-- The log with one more record at its back (R176). -/
def State.logWith (s : State) (r : OutcomeRecord) : OutcomeLog :=
  { s.log with records := s.log.records ++ [r] }

/-- The recorder after the offer of a record: OUTCOME-LOST is raised with its tag if it is dropped
(R176). -/
def State.recorderOffered (s : State) (r : OutcomeRecord) : Recorder :=
  if s.log.drops then s.recorder.raised s.cfg s.now .outcomeLost ⟨none, none, some r.tag⟩
  else s.recorder

/-- The hold set after the offer of a record: HALT set by a FATAL OUTCOME-LOST (R182), and under the
HOLD policy GUARD set with 15 or more records (R178). -/
def State.holdsOffered (s : State) (r : OutcomeRecord) : Holds :=
  { s.holds with
    halt := s.holds.halt || (s.log.drops && setsHalt s.cfg .outcomeLost)
    guard := s.holds.guard ||
      decide (s.cfg.fullPolicy = .hold ∧ 15 ≤ (s.log.offered r).records.length) }

/-- The offer of a record at any log count, outside CONFIG (R176, R178): the log takes or drops it, and
the engine acts on the held set where a source becomes set (R160); nothing else changes. -/
def RecordOffered (s t : State) (r : OutcomeRecord) : Prop :=
  t = { s with
    log := s.log.offered r
    recorder := s.recorderOffered r
    holds := s.holdsOffered r
    attention := if s.holdsOffered r = s.holds then s.attention
      else { s.attention with holdLatched := true }
    engine := t.engine
    queue := t.queue
    link := t.link } ∧
  (s.holdsOffered r = s.holds → t.engine = s.engine ∧ t.queue = s.queue ∧ t.link = s.link) ∧
  (s.holdsOffered r ≠ s.holds → HoldTakesEffect s t)

/-- The evaluation of the head `r` in WAITING (R137, R138): it stays, or enters INTENT, or zero-length
work completes; the heads behind it are then evaluated in the same event, and with none the engine is
IDLE. -/
def HeadEvaluated (s t : State) (r : Request) (rest : List Request) : Prop :=
  (HeadStays s r → t = s) ∧
  (PassesTests s r → EntersIntent s t r rest ∧
    t = { s with engine := t.engine, queue := t.queue, builder := t.builder, link := t.link }) ∧
  (s.holds.held = false → r.eligible = true →
    requestTarget s.cfg s.engine.offset r = s.engine.offset → LogHasRoom s →
    let record := completionRecord s r (if r.isSweep then .atLimit else .done)
    (s.logWith record).records <+: t.log.records ∧ (∀ x ∈ t.queue, x.tag ≠ r.tag) ∧
    (rest = [] → t = { s with
      queue := []
      engine := { s.engine with state := .idle, work := .none }
      log := s.logWith record }))

/-! ### The contest -/

/-- The active count and the outranking count of the head `r` in INTENT, together (R66 to R68). -/
def contenders (s : State) (r : Request) : Nat :=
  activeCount s.neighbours +
    outrankingCountOf r.cls s.builder.claimAge s.cfg.station s.neighbours

/-- A yield of the head `r` (R142): the count rises, the pause starts and IDLE is announced; at the
yield limit the head leaves GAVE-UP. -/
def IntentYields (s t : State) (r : Request) (rest : List Request) : Prop :=
  let yielded := { r with position := .waiting, yields := r.yields + 1 }
  let engine := { s.engine with
    state := .waiting, holdOff := none, expired := false, echo := false
    yieldPause := some (later s.now s.cfg.holdOff) }
  (r.yields + 1 < s.cfg.yieldLimit →
    AnnouncedIdle s t ∧
    t = { s with queue := yielded :: rest, engine := engine, link := t.link }) ∧
  (s.cfg.yieldLimit ≤ r.yields + 1 → LogHasRoom s →
    let log := s.logWith (completionRecord s yielded .gaveUp)
    log.records <+: t.log.records ∧ (∀ x ∈ t.queue, x.tag ≠ r.tag) ∧
    (rest = [] →
      AnnouncedIdle s t ∧
      t = { s with
        queue := [], log := log, link := t.link
        engine := { engine with state := .idle, work := .none } }))

/-- The entry of the head `r` to GRANTED (R147 to R149). -/
def GrantEntered (s t : State) (r : Request) (rest : List Request) : Prop :=
  let target := requestTarget s.cfg s.engine.offset r
  let timeout := later s.now (startTimeoutOf s.cfg.startTimeoutCode)
  Announced s t .committed r.cls 0 s.engine.offset target ∧
  t = { s with
    link := t.link
    queue := { Request.modMove (fun m => { m with expiryRuns := false }) r with
      position := .granted, firstGrant := some (r.firstGrant.getD s.now) } :: rest
    builder := { s.builder with
      move := s.builder.move + 1
      refs := { s.builder.refs with startTimeout := some timeout } }
    engine := { s.engine with
      state := .granted, work := .request, holdOff := none, expired := false, echo := false
      startTimeout := some timeout
      grant := some ⟨.request, r.tag, r.cls, s.builder.move + 1, s.engine.offset, target,
        moveDuration s.cfg (target - s.engine.offset)⟩ } }

/-- The intent of the head `r` is lost: a hold source is set, or the quiet condition does not hold
(R141, R145). -/
abbrev IntentLost (s : State) (r : Request) : Prop :=
  s.holds.held = true ∨
    (quietMet s r = false ∧ requestTarget s.cfg s.engine.offset r ≠ s.engine.offset)

/-- The intent is withdrawn, and nothing but the engine, the queue and the link changes (R143). -/
def OnlyWithdrawn (s t : State) : Prop :=
  IntentWithdrawn s t ∧ t = { s with engine := t.engine, queue := t.queue, link := t.link }

/-- The commit test of the head `r` (R145). -/
def CommitTested (s t : State) (r : Request) (rest : List Request) : Prop :=
  (IntentLost s r → OnlyWithdrawn s t) ∧
  (s.holds.held = false → quietMet s r = true →
    (s.cfg.budget ≤ contenders s r → IntentYields s t r rest) ∧
    (contenders s r < s.cfg.budget → GrantEntered s t r rest))

/-- The tests of an evaluation point in INTENT (R141): withdrawn when it is lost; at the report of an
intake completion it yields to contenders that use up the budget; with the hold-off run out and the
echo good the commit test is made; else nothing changes. -/
def IntentTested (atIntake : Bool) (s t : State) (r : Request) (rest : List Request) : Prop :=
  (IntentLost s r → OnlyWithdrawn s t) ∧
  (s.holds.held = false → quietMet s r = true →
    (atIntake = true → s.cfg.budget ≤ contenders s r → IntentYields s t r rest) ∧
    (¬(atIntake = true ∧ s.cfg.budget ≤ contenders s r) →
      (s.engine.expired = true → s.engine.echo = true → CommitTested s t r rest) ∧
      (¬(s.engine.expired = true ∧ s.engine.echo = true) → t = s)))

/-- An evaluation point (R135): the engine looks in WAITING and in INTENT alone. -/
def EvaluationPoint (atIntake : Bool) (s t : State) : Prop :=
  (s.engine.state ≠ .waiting → s.engine.state ≠ .intent → t = s) ∧
  (s.engine.state = .waiting → s.queue = [] → t = s) ∧
  ∀ r rest, s.queue = r :: rest →
    (s.engine.state = .waiting → HeadEvaluated s t r rest) ∧
    (s.engine.state = .intent → IntentTested atIntake s t r rest)

/-- A source that was set is cleared (R159, R160, R162): the HOLD cause is latched; while another source
is set nothing else changes; with the set left empty the change is an evaluation point. -/
def SourceCleared (s t : State) (src : HoldSource) : Prop :=
  let cleared := { s with
    holds := s.holds.put src false, attention := { s.attention with holdLatched := true } }
  t.attention.holdLatched = true ∧ t.port = s.port ∧
  (cleared.holds.held = true → HeldBlocks s → t = cleared) ∧
  (cleared.holds.held = false → EvaluationPoint false cleared t)

/-- What a fall of the log count under HOLD does once no deferred completion can follow (steps 2 and 3
of R179): GUARD is reported for the count held, and at 13 or fewer the fall is an evaluation point. -/
def FallServed (s t : State) : Prop :=
  ∃ u,
    (15 ≤ s.log.records.length →
      (s.holds.guard = false → SourceSet s u .guard) ∧ (s.holds.guard = true → u = s)) ∧
    (s.log.records.length < 15 →
      (s.holds.guard = true → SourceCleared s u .guard) ∧ (s.holds.guard = false → u = s)) ∧
    (u.log.records.length ≤ 13 → EvaluationPoint false u t) ∧
    (13 < u.log.records.length → t = u)

/-! ### The final announcement -/

/-- The part enters CONFIG as the link enters OFF (R36 to R38, R54, R157, R174, R193): the slot, the
buffer, the table, the list, the wind record, the hold set and the queue are emptied or cleared, the
HOLD cause is latched if a source was set, the engine is at rest with its offset and lapsed tag, and a
frame in work is void. -/
def ConfigEntered (s t : State) : Prop :=
  t = { s with
    part := .config
    link := { s.link with
      trail := if s.link.trail.current = .off then s.link.trail
        else ⟨.off, s.link.trail.current, s.link.trail.first, s.link.trail.second⟩
      listenTimer := none, checkTimer := none, signalLoss := none, refresh := none
      heardOther := false, stage := .idle, final := .none, slot := ⟨none, false, false⟩
      sent := [], sentCurrent := false, buffer := [] }
    neighbours := []
    windows := []
    quietMap := { s.quietMap with bins := List.replicate 32 .clear }
    wind := ⟨0, 0, .cleared, none⟩
    attention := { s.attention with holdLatched := s.attention.holdLatched || s.holds.held }
    holds := Holds.reset
    queue := []
    builder := { s.builder with refs := RefTimes.none }
    engine := { Engine.reset with lapsedTag := s.engine.lapsedTag, offset := s.engine.offset }
    intake := s.intake.map fun w => { w with void := true } }

/-- The final announcement is requested (R37, R50, R193): a READY link holds the final IDLE edition,
pending and not confirmed, and makes the final attempt at once, or after the echo check of the frame in
progress; any other link enters OFF and the part CONFIG. That the write of the final edition begins no
attempt of its own is log entry 13. -/
def FinalRequested (s t : State) : Prop :=
  let written := { s.link with
    slot := ⟨some (s.edition .idle .normal 0 s.engine.offset s.engine.offset), true, false⟩
    sentCurrent := false }
  let busy := s.link.stage = .send ∨ s.link.stage = .echoWait
  (s.link.trail.current = .ready → busy →
    t = { s with link := { written with final := .awaited } }) ∧
  (s.link.trail.current = .ready → ¬busy →
    t = { s with link :=
      { written with final := .running, sent := [] }.attempting s.pins.laneActive }) ∧
  (s.link.trail.current ≠ .ready → ConfigEntered { s with link := written } t)

/-! ### Requests: the end of a step, the queue, a submission -/

/-- A sweep at the ENDED of its step (steps 1 and 2 of R125). -/
def SweepJob.afterStep (now : Nat) (w : SweepJob) : SweepJob :=
  { w with
    stepsDone := min 65535 (w.stepsDone + 1)
    remaining := if w.count = 0 then w.remaining else w.remaining - 1
    confirm := false
    afterPark := false
    paceDeadline := match w.pacing with
      | .released => w.paceDeadline
      | .paced interval _ => some (later now interval) }

/-- The front request at the ENDED of its move, and the outcome with which it completes, none if it goes
on (R118, R125, R126): a MOVE is DONE; a sweep is CANCELLED, or SWEEP-DONE, or takes up its extension,
or has steps left, with its yield count at 0. -/
def Request.afterEnded (now : Nat) (r : Request) : Request × Option OutcomeCode :=
  match r.job with
  | .move _ => (r, some .done)
  | .sweep w =>
    let w1 := w.afterStep now
    if w.cancelPending then ({ r with job := .sweep w1 }, some .cancelled)
    else if w.count ≠ 0 ∧ w1.remaining = 0 then
      if w.extension = 0 then ({ r with job := .sweep w1 }, some .sweepDone)
      else
        ({ r with
          job := .sweep { w1 with remaining := w.extension, extension := 0 }, yields := 0 }, none)
    else ({ r with job := .sweep w1, yields := 0 }, none)

/-- Whether the ENDED of its move has a sweep take up its extension (R126). -/
def Request.extends (r : Request) : Bool :=
  match r.job with
  | .move _ => false
  | .sweep w =>
    !w.cancelPending && decide (w.count ≠ 0 ∧ w.remaining - 1 = 0 ∧ 0 < w.extension)

/-- The queue with the requests of a tag changed. -/
def changeTag (tag : W16) (f : Request → Request) (q : List Request) : List Request :=
  q.map fun r => if r.tag = tag then f r else r

/-- The queue without the request of a tag. -/
def withoutTag (tag : W16) (q : List Request) : List Request :=
  q.filter fun r => decide (r.tag ≠ tag)

/-- The record that SUBMIT or SUBMIT_SWEEP makes, if its tag is not 0 and its codes and step lie in
their sets (R114, R115). -/
def submissionOf (s : State) (c : Instr) : Option Request :=
  let record := fun (tag : W16) (cls : Byte) (job : Job) =>
    (⟨tag, if cls = 0 then .normal else .priority, job, .queued, none, 0, none⟩ : Request)
  match c with
  | .submit tag cls target waiveFlag waiveDelay expiryFlag expiryDelay =>
    if tag = 0 ∨ 2 ≤ cls.toNat then none
    else some <| record tag cls <| .move
      { target := max (-(s.cfg.limit : Int)) (min (s.cfg.limit : Int) target.toInt)
        waiveTime := if waiveFlag = 0 then none else some (later s.now waiveDelay.toNat)
        waiveRuns := decide (waiveFlag ≠ 0)
        expiryTime := if expiryFlag = 0 then none else some (later s.now expiryDelay.toNat)
        expiryRuns := decide (expiryFlag ≠ 0)
        expiredPending := false }
  | .submitSweep tag cls step count pacing interval policy =>
    if tag = 0 ∨ 2 ≤ cls.toNat ∨ step = 0 ∨ 2 ≤ pacing.toNat ∨ (pacing = 1 ∧ 3 ≤ policy.toNat) then
      none
    else some <| record tag cls <| .sweep
      { step := max (-100) (min 100 step.toInt)
        count := min 255 count.toNat
        pacing :=
          if pacing = 0 then .released
          else .paced (max 10 (min 6000 interval.toNat))
            (if policy = 0 then .repeatStep else if policy = 1 then .skip else .endSweep)
        stepsDone := 0
        remaining := min 255 count.toNat
        extension := 0
        confirm := false
        afterPark := false
        cancelPending := false
        paceDeadline := none
        unconfirmedPending := false }
  | _ => none

/-- The queue with a new request in its place (R116): a NORMAL request at the back; a PRIORITY one
behind a head in the engine's hands and every PRIORITY request, before every NORMAL one. -/
def placedByClass (r : Request) (q : List Request) : List Request :=
  let ps := fun l : List Request => l.filter fun x => decide (x.cls = .priority)
  let ns := fun l : List Request => l.filter fun x => decide (x.cls = .normal)
  match r.cls, q with
  | .normal, _ => q ++ [r]
  | .priority, [] => [r]
  | .priority, h :: rest =>
    if h.position = .queued ∨ h.position = .waiting then ps q ++ r :: ns q
    else h :: (ps rest ++ r :: ns rest)

/-! ### Capacities and ranges -/

/-- No list is longer than its capacity, and the collision count lies in 0..8 (R31, R36, R55, R89,
R111, R175, R195). -/
def WithinCapacity (s : State) : Prop :=
  s.neighbours.length ≤ 48 ∧ s.windows.length ≤ 32 ∧ s.queue.length ≤ 8 ∧
  s.log.records.length ≤ 16 ∧ s.link.buffer.length ≤ 4 ∧ s.link.collisions ≤ 8

/-- Every field of the configuration record lies in its range (R190); the station number may be 0,
"unconfigured". -/
def ConfigInRange (s : State) : Prop :=
  s.cfg.station ≤ 4095 ∧ s.cfg.east ≤ 32767 ∧ s.cfg.north ≤ 32767 ∧
  (10 ≤ s.cfg.limit ∧ s.cfg.limit ≤ 300) ∧ (10 ≤ s.cfg.yawRate ∧ s.cfg.yawRate ≤ 200) ∧
  (128 ≤ s.cfg.advection ∧ s.cfg.advection ≤ 256) ∧
  (20 ≤ s.cfg.halfWidth ∧ s.cfg.halfWidth ≤ 400) ∧ s.cfg.expansion ≤ 64 ∧ s.cfg.gain ≤ 255 ∧
  (600 ≤ s.cfg.horizon ∧ s.cfg.horizon ≤ 12000) ∧ s.cfg.wakeSettle ≤ 1200 ∧
  s.cfg.ownSettle ≤ 1200 ∧ (100 ≤ s.cfg.radius ∧ s.cfg.radius ≤ 10000) ∧
  (1 ≤ s.cfg.budget ∧ s.cfg.budget ≤ 15) ∧ (5 ≤ s.cfg.holdOff ∧ s.cfg.holdOff ≤ 100) ∧
  (1 ≤ s.cfg.yieldLimit ∧ s.cfg.yieldLimit ≤ 15) ∧ s.cfg.startTimeoutCode ≤ 7 ∧
  s.cfg.overrunMargin ≤ 200 ∧ (20 ≤ s.cfg.refreshPeriod ∧ s.cfg.refreshPeriod ≤ 600) ∧
  s.cfg.jitter ≤ s.cfg.refreshPeriod / 2 ∧
  (2 ≤ s.cfg.expiryMultiple ∧ s.cfg.expiryMultiple ≤ 8) ∧
  (1 ≤ s.cfg.listenMultiple ∧ s.cfg.listenMultiple ≤ 8) ∧ s.cfg.periodCode ≤ 3 ∧
  (10 ≤ s.cfg.windExpiry ∧ s.cfg.windExpiry ≤ 600) ∧ s.cfg.endedTolerance ≤ 50 ∧
  (1 ≤ s.cfg.outcomeThreshold ∧ s.cfg.outcomeThreshold ≤ 16) ∧
  (1 ≤ s.cfg.roomThreshold ∧ s.cfg.roomThreshold ≤ 8) ∧
  (-(s.cfg.limit : Int) ≤ s.cfg.parkOffset ∧ s.cfg.parkOffset ≤ s.cfg.limit)

/-- The current offset lies in −300..+300 (R7), the local time in 40 bits (R1). -/
def OffsetAndTimeInRange (s : State) : Prop :=
  -300 ≤ s.engine.offset ∧ s.engine.offset ≤ 300 ∧ s.now ≤ 2 ^ 40 - 1

/-- The wind record of R9: D in 0..1023, U in 0..400, both 0 in CLEARED, and a staleness deadline in
FRESH only. -/
def WindRecordLawful (s : State) : Prop :=
  s.wind.direction ≤ 1023 ∧ s.wind.speed ≤ 400 ∧
  (s.wind.condition = .cleared → s.wind.direction = 0 ∧ s.wind.speed = 0) ∧
  (s.wind.staleness.isSome = true → s.wind.condition = .fresh)

/-! ### Tables, lists and the map -/

/-- The table is in strictly ascending order of station number, so it holds at most one entry a
station (R55). -/
def TableOrdered (s : State) : Prop :=
  s.neighbours.Pairwise fun n m => n.station < m.station

/-- The window list is in the order of R89 with at most one window a key, and no window closes before
it opens. -/
def WindowsOrdered (s : State) : Prop :=
  (s.windows.Pairwise fun w v => w.before v = true) ∧
  (s.windows.Pairwise fun w v => w.hasKey v.station v.move = false) ∧
  ∀ w ∈ s.windows, heldTime w.openTime ≤ heldTime w.closeTime

/-- The map is as the present list and base make it: bin k is BUSY exactly when a window, its open and
close times not equal, opens before the bin's end and closes after its start (R101, log entry 28). -/
def MapCurrent (s : State) : Prop :=
  s.quietMap.bins.length = 32 ∧
  ∀ k, k < 32 → (s.quietMap.bins[k]? = some .busy ↔
    ∃ w ∈ s.windows, heldTime w.openTime < heldTime w.closeTime ∧
      heldTime w.openTime < s.quietMap.base + (k + 1) * binPeriod s.cfg ∧
      s.quietMap.base + k * binPeriod s.cfg < heldTime w.closeTime)

/-- Under the HOLD policy LOST stands only while the log is full (R176, R180). -/
def LostMeansFull (s : State) : Prop :=
  s.cfg.fullPolicy = .hold → s.log.lost = true → 16 ≤ s.log.records.length

/-! ### Holds -/

/-- The STORM and PARK sources are their latches; in RUNNING and STOPPING the WIND source is set
unless the wind record is FRESH, and the LINK source unless the link is READY (R12, R22, R163,
R166). -/
def SourcesFollowOwners (s : State) : Prop :=
  s.holds.storm = s.holds.stormLatch ∧ s.holds.park = s.holds.parkLatch ∧
  (s.part ≠ .config →
    (s.holds.wind = true ↔ s.wind.condition ≠ .fresh) ∧
    (s.holds.link = true ↔ s.link.trail.current ≠ .ready) ∧ s.link.trail.current ≠ .off)

/-! ### The part at rest, and the engine and its head -/

/-- In CONFIG the link is OFF, the engine IDLE, and the slot, the buffer, the tables, the queue, the
wind record and the hold set are empty or clear (R193); a frame still in work there is void (R54). -/
def AtRestInConfig (s : State) : Prop :=
  s.part = .config →
    s.link.trail.current = .off ∧ s.link.stage = .idle ∧ s.link.slot = Slot.empty ∧
    s.link.final = .none ∧ s.link.buffer = [] ∧ s.link.listenTimer = none ∧
    s.link.checkTimer = none ∧ s.link.signalLoss = none ∧ s.link.refresh = none ∧
    s.engine.state = .idle ∧ s.engine.work = .none ∧ s.engine.grant = none ∧
    s.engine.holdOff = none ∧ s.engine.yieldPause = none ∧ s.engine.startTimeout = none ∧
    s.engine.overrun = none ∧ s.engine.settle = none ∧ s.engine.echo = false ∧
    s.engine.expired = false ∧ s.holds = Holds.reset ∧ s.neighbours = [] ∧ s.windows = [] ∧
    s.queue = [] ∧ s.wind = WindRecord.clear ∧ ∀ w, s.intake = some w → w.void = true

/-- The engine states in which each head work can stand (R134). -/
def stateCarries (e : EngineState) (w : HeadWork) : Bool :=
  match e, w with
  | .idle, .none | .waiting, .request | .intent, .request | .granted, .request | .granted, .park
  | .moving, .request | .moving, .park | .settling, .request | .settling, .none => true
  | _, _ => false

/-- The position of a head in each engine state (R112). -/
def positionIn : EngineState → Position
  | .idle => .queued
  | .waiting => .waiting
  | .intent => .intent
  | .granted => .granted
  | .moving => .moving
  | .settling => .settling

/-- Of the queue, only the head stands outside QUEUED, at the position of the engine's state (R112);
a head in SETTLING is a sweep. -/
def positionsAgree (e : EngineState) (w : HeadWork) (q : List Request) : Prop :=
  match w with
  | .request =>
    match q with
    | [] => False
    | r :: rest =>
      r.position = positionIn e ∧ (e = .settling → r.isSweep = true) ∧
      ∀ x ∈ rest, x.position = .queued
  | .none | .park => ∀ x ∈ q, x.position = .queued

/-- The grant record stands from the entry to GRANTED to the end of SETTLING; while the work is in
GRANTED or MOVING it names that work, the park with tag 0 (R148, R169). -/
def grantAgrees (e : Engine) (q : List Request) : Prop :=
  match e.state with
  | .idle | .waiting | .intent => e.grant = none
  | .settling => e.grant ≠ none
  | .granted | .moving =>
    ∃ g, e.grant = some g ∧
      match e.work with
      | .request => g.work = .request ∧ q.head?.map Request.tag = some g.tag
      | .park => g.work = .park ∧ g.tag = 0 ∧ g.cls = .priority
      | .none => False

/-- Each timer of the engine runs in the one state that it belongs to, and the marker and the echo
flag stand in INTENT only (R139, R140, R149, R152, R155). -/
def timersAgree (e : Engine) : Prop :=
  (e.holdOff.isSome = true → e.state = .intent) ∧
  (e.expired = true → e.state = .intent) ∧ (e.echo = true → e.state = .intent) ∧
  (e.startTimeout.isSome = true ↔ e.state = .granted ∧ e.work = .request) ∧
  (e.overrun.isSome = true → e.state = .moving) ∧
  (e.settle.isSome = true ↔ e.state = .settling)

/-- Tags are unique in the queue and none is 0 (R111). -/
def TagsUnique (s : State) : Prop :=
  (s.queue.Pairwise fun r x => r.tag ≠ x.tag) ∧ ∀ r ∈ s.queue, r.tag ≠ 0

/-- A sweep that runs on through STOPPING is marked cancel-pending (R133). -/
def Request.endsAtStop (r : Request) : Bool :=
  match r.job with
  | .move _ => true
  | .sweep w => w.cancelPending

/-- The engine, its head, its grant and its timers agree: R112, R134 and R148; an IDLE engine leaves
no request waiting (R136), a deferred completion stands in QUEUED or WAITING (R123, R131), and
STOPPING leaves no request that would go on (R133). -/
def EngineCoherent (s : State) : Prop :=
  stateCarries s.engine.state s.engine.work = true ∧
  positionsAgree s.engine.state s.engine.work s.queue ∧
  grantAgrees s.engine s.queue ∧ timersAgree s.engine ∧
  (s.engine.state = .idle → s.queue = []) ∧
  (∀ r ∈ s.queue, r.deferred = true → r.position = .queued ∨ r.position = .waiting) ∧
  (s.part = .stopping → (∀ r ∈ s.queue, r.position = .moving ∧ r.endsAtStop = true) ∧
    (s.engine.state = .idle ∨ s.engine.state = .moving ∨
      (s.engine.state = .granted ∧ s.engine.work = .park)))

/-- The conditions on the engine that the claims about its steps start from. -/
def EngineLawful (s : State) : Prop :=
  AtRestInConfig s ∧ TagsUnique s ∧ SourcesFollowOwners s ∧ HeldBlocks s ∧ EngineCoherent s

end Sys2Proof.Machine
end

