-- ==== Sys2Proof/Certificates/Slice0/Obligations.lean ====
section
/-! DEFINITION. The statements for the provers, one `def Obligations.<Name> : Prop` each. The
premise that the port has no transaction's command taken and is not blocked is the condition under
which it takes one (R188, R194). -/

open Sys2Proof Sys2Proof.Machine

/-! ### The queue of commands, and what no command touches -/

/-- A step runs the command at the front of the queue on the state with the queue's rest, and idles
on an empty queue (the model's choice, log entry 1). -/
def Obligations.StepRunsFrontCommand : Prop :=
  (∀ (c : Instr) (rest : List Instr) (s : State),
    step (s.withPending (c :: rest)) = exec c (s.withPending rest)) ∧
  ∀ s : State, step (s.withPending []) = .next (s.withPending [])

/-- Every command answers a next state (DEDUCED, log entry 24). The waiting queue is kept (the model's
choice, log entries 1 and 5); the local time changes by the tick and by reset alone, the
configuration by CONFIGURE and reset, each line level by its own events, by reset none (the model's
choice, log entry 5), and the port by port commands, TRANSACTION_END and reset. -/
def Obligations.CommandsKeepTheirSurroundings : Prop :=
  ∀ (c : Instr) (s : State), ∃ t, exec c s = .next t ∧ t.pending = s.pending ∧
    (match c with
      | .localTimeTick => t.now = min (s.now + 1) (2 ^ 40 - 1)
      | .hardwareReset _ => t.now = 0
      | _ => t.now = s.now) ∧
    (match c with
      | .configure _ | .hardwareReset _ => True
      | _ => t.cfg = s.cfg) ∧
    (match c with
      | .stormLineEvent high => t.pins = { s.pins with storm := high }
      | .lsdAsserted => t.pins = { s.pins with light := true }
      | .lsdDeasserted => t.pins = { s.pins with light := false }
      | .laneActivity => t.pins = { s.pins with laneActive := true }
      | .laneQuiet => t.pins = { s.pins with laneActive := false }
      | _ => t.pins = s.pins) ∧
    (isPortCommand c = true ∨ c = .transactionEnd ∨ (∃ b, c = .hardwareReset b) ∨
      t.port = s.port)

/-- The current offset changes at START, at an ENDED that is taken, and at reset alone (R7), and is
then the clamped operand. -/
def Obligations.OffsetChangesOnlyAtStartAndEnded : Prop :=
  ∀ (c : Instr) (s t : State), exec c s = .next t →
    match c with
    | .start offset =>
        t.engine.offset = s.engine.offset ∨
          (s.part = .config ∧ t.engine.offset = max (-300) (min 300 offset.toInt))
    | .ended tag achieved =>
        t.engine.offset = s.engine.offset ∨
          (s.engine.state = .moving ∧ s.engine.grant.map Grant.tag = some tag ∧
            t.engine.offset = max (-300) (min 300 achieved.toInt))
    | .hardwareReset _ => t.engine.offset = 0
    | _ => t.engine.offset = s.engine.offset

/-- The neighbour table changes at intake completions and entry expiries, the window list at intake
completions and window closes, the wind record at WIND and its staleness expiry; else each is
kept, or emptied as the part enters CONFIG or is reset (R53, R62, R89, R98, R9, R193). -/
def Obligations.TablesChangeOnlyByTheirEvents : Prop :=
  ∀ (c : Instr) (s t : State), exec c s = .next t →
    ((c = .intakeCompletion ∨ ∃ n, c = .entryExpiry n) ∨ t.neighbours = s.neighbours ∨
      (t.part = .config ∧ t.neighbours = [])) ∧
    ((c = .intakeCompletion ∨ ∃ n m, c = .windowClose n m) ∨ t.windows = s.windows ∨
      (t.part = .config ∧ t.windows = [])) ∧
    ((c = .windStalenessExpiry ∨ ∃ d u, c = .wind d u) ∨ t.wind = s.wind ∨
      (t.part = .config ∧ t.wind = ⟨0, 0, .cleared, none⟩))

/-! ### Reset, time, configuration, start and stop -/

/-- HARDWARE_RESET leaves the reset values whatever the state was, with SEL low at the release the
port blocked (R194); the values are those of each chapter's table. The waiting queue and the
line levels are the outside's (log entry 5). A tick advances the local time by one up to 2^40 −
1 (R1). -/
def Obligations.ResetAndTick : Prop :=
  (∀ (selLow : Bool) (s : State), exec (.hardwareReset selLow) s =
    .next { State.reset with
      pending := s.pending
      pins := s.pins
      port := ⟨if selLow then .blocked else .noTransaction, []⟩ }) ∧
  (∀ s : State, exec .localTimeTick s = .next { s with now := min (s.now + 1) (2 ^ 40 - 1) }) ∧
  State.reset.now = 0 ∧ State.reset.part = .config ∧ State.reset.cfg = Config.default ∧
  State.reset.wind = ⟨0, 0, .cleared, none⟩ ∧
  State.reset.link.trail = ⟨.off, .off, .off, .off⟩ ∧ State.reset.link.stage = .idle ∧
  State.reset.link.slot = ⟨none, false, false⟩ ∧ State.reset.link.refresh = none ∧
  State.reset.link.listenTimer = none ∧ State.reset.link.checkTimer = none ∧
  State.reset.link.signalLoss = none ∧ State.reset.link.jitter = 0 ∧
  State.reset.link.collisions = 0 ∧ State.reset.link.buffer = [] ∧
  State.reset.builder = ⟨0, 0, ⟨none, none, none, none, none, none⟩⟩ ∧
  State.reset.intake = none ∧ State.reset.neighbours = [] ∧ State.reset.windows = [] ∧
  State.reset.quietMap = ⟨0, 50, List.replicate 32 .clear⟩ ∧ State.reset.queue = [] ∧
  State.reset.engine =
    ⟨.idle, .none, none, none, false, false, none, none, none, none, none, 0⟩ ∧
  State.reset.holds.held = false ∧ State.reset.holds.stormLatch = false ∧
  State.reset.holds.parkLatch = false ∧ State.reset.log = ⟨[], false⟩ ∧
  State.reset.recorder = ⟨0, none⟩ ∧ State.reset.attention = ⟨false, false, false⟩ ∧
  Config.default =
    { station := 0, east := 0, north := 0, limit := 250, yawRate := 30, advection := 192
      halfWidth := 90, expansion := 20, gain := 33, horizon := 3000, wakeSettle := 300
      ownSettle := 100, radius := 1500, budget := 2, holdOff := 20, yieldLimit := 6
      startTimeoutCode := 3, overrunMargin := 50, refreshPeriod := 50, jitter := 10
      expiryMultiple := 4, listenMultiple := 2, periodCode := 2, windExpiry := 100
      endedTolerance := 10, outcomeThreshold := 1, fullPolicy := .hold, roomThreshold := 1
      stormSense := .high, parkOffset := 0, attentionEnables := 0x3f, faultMasks := 0
      faultSeverities := 2 }

/-- CONFIGURE in CONFIG stores the clamped record, answers with it, re-aligns the map to a changed P
and clears LOST under HOLD with room; nothing else changes (R190, R110, R180). -/
def Obligations.ConfigureStoresRecord : Prop :=
  ∀ (r : ConfigWire) (s : State), s.port.phase = .noTransaction → s.part = .config →
    ∃ t, exec (.configure r) s = .next t ∧
      t = { s with cfg := t.cfg, quietMap := t.quietMap, log := t.log, port := t.port } ∧
      t.port = ⟨.taken, 0 :: configBytes t.cfg⟩ ∧ (configBytes t.cfg).length = 61 ∧
      t.cfg.station =
        (if 1 ≤ r.station.toNat ∧ r.station.toNat ≤ 4095 then r.station.toNat else s.cfg.station) ∧
      t.cfg.east = min 32767 r.east.toNat ∧ t.cfg.north = min 32767 r.north.toNat ∧
      t.cfg.limit = max 10 (min 300 r.limit.toNat) ∧
      t.cfg.yawRate = max 10 (min 200 r.yawRate.toNat) ∧
      t.cfg.advection = max 128 (min 256 r.advection.toNat) ∧
      t.cfg.halfWidth = max 20 (min 400 r.halfWidth.toNat) ∧
      t.cfg.expansion = min 64 r.expansion.toNat ∧ t.cfg.gain = min 255 r.gain.toNat ∧
      t.cfg.horizon = max 600 (min 12000 r.horizon.toNat) ∧
      t.cfg.wakeSettle = min 1200 r.wakeSettle.toNat ∧
      t.cfg.ownSettle = min 1200 r.ownSettle.toNat ∧
      t.cfg.radius = max 100 (min 10000 r.radius.toNat) ∧
      t.cfg.budget = max 1 (min 15 r.budget.toNat) ∧
      t.cfg.holdOff = max 5 (min 100 r.holdOff.toNat) ∧
      t.cfg.yieldLimit = max 1 (min 15 r.yieldLimit.toNat) ∧
      t.cfg.startTimeoutCode =
        (if r.startTimeoutCode.toNat ≤ 7 then r.startTimeoutCode.toNat
          else s.cfg.startTimeoutCode) ∧
      t.cfg.overrunMargin = min 200 r.overrunMargin.toNat ∧
      t.cfg.refreshPeriod = max 20 (min 600 r.refreshPeriod.toNat) ∧
      t.cfg.jitter = min (t.cfg.refreshPeriod / 2) r.jitter.toNat ∧
      t.cfg.expiryMultiple = max 2 (min 8 r.expiryMultiple.toNat) ∧
      t.cfg.listenMultiple = max 1 (min 8 r.listenMultiple.toNat) ∧
      t.cfg.periodCode =
        (if r.periodCode.toNat ≤ 3 then r.periodCode.toNat else s.cfg.periodCode) ∧
      t.cfg.windExpiry = max 10 (min 600 r.windExpiry.toNat) ∧
      t.cfg.endedTolerance = min 50 r.endedTolerance.toNat ∧
      t.cfg.outcomeThreshold = max 1 (min 16 r.outcomeThreshold.toNat) ∧
      t.cfg.fullPolicy =
        (if r.fullPolicy = 0 then .hold else if r.fullPolicy = 1 then .drop
          else s.cfg.fullPolicy) ∧
      t.cfg.roomThreshold = max 1 (min 8 r.roomThreshold.toNat) ∧
      t.cfg.stormSense =
        (if r.stormSense = 0 then .low else if r.stormSense = 1 then .high
          else if r.stormSense = 2 then .rising else if r.stormSense = 3 then .falling
          else s.cfg.stormSense) ∧
      t.cfg.parkOffset =
        max (-(t.cfg.limit : Int)) (min (t.cfg.limit : Int) r.parkOffset.toInt) ∧
      t.cfg.attentionEnables = r.attentionEnables.truncate 6 ∧
      t.cfg.faultMasks = r.faultMasks.truncate 10 ∧
      t.cfg.faultSeverities = r.faultSeverities.truncate 10 ∧
      (t.cfg.periodCode = s.cfg.periodCode → t.quietMap = s.quietMap) ∧
      (t.cfg.periodCode ≠ s.cfg.periodCode →
        t.quietMap.base = s.now / binPeriod t.cfg * binPeriod t.cfg ∧
        t.quietMap.boundary = later t.quietMap.base (binPeriod t.cfg) ∧
        (s.windows = [] → t.quietMap.bins = List.replicate 32 .clear)) ∧
      t.log = (if t.cfg.fullPolicy = .hold ∧ s.log.records.length < 16
        then { s.log with lost := false } else s.log)

/-- A known command is answered WRONG-STATE, and changes nothing, in every part state in which its
owning rule does not accept it (R189). -/
def Obligations.WrongStateChangesNothing : Prop :=
  ∀ s : State, s.port.phase = .noTransaction →
    (s.part ≠ .config →
      (∀ r, exec (.configure r) s = .next (s.answering [1])) ∧
      ∀ o, exec (.start o) s = .next (s.answering [1])) ∧
    (s.part ≠ .running →
      exec .stop s = .next (s.answering [1]) ∧
      (∀ tag cls target wf wd ef ed,
        exec (.submit tag cls target wf wd ef ed) s = .next (s.answering [1])) ∧
      (∀ tag cls step count pacing interval policy,
        exec (.submitSweep tag cls step count pacing interval policy) s =
          .next (s.answering [1])) ∧
      (∀ tag e, exec (.extend tag e) s = .next (s.answering [1])) ∧
      exec .confirm s = .next (s.answering [1])) ∧
    (s.part = .config →
      (∀ d u, exec (.wind d u) s = .next (s.answering [1])) ∧
      (∀ tag, exec (.cancel tag) s = .next (s.answering [1])) ∧
      (∀ tag, exec (.begun tag) s = .next (s.answering [1])) ∧
      (∀ tag a, exec (.ended tag a) s = .next (s.answering [1])) ∧
      exec .hold s = .next (s.answering [1]) ∧ exec .release s = .next (s.answering [1]) ∧
      (∀ source, exec (.clearHold source) s = .next (s.answering [1])) ∧
      exec .resume s = .next (s.answering [1]))

/-- An unknown code is answered BAD-COMMAND in every part state and changes nothing (R189). After the
last bit of a taken command SDO carries two zero bytes, the answer record, then zeros, and no
further command is taken until SEL rises (R188); none is taken while SEL is low since the release
of RESET (R194). TRANSACTION_END ends any transaction and SDO is released. -/
def Obligations.PortBoundaries : Prop :=
  (∀ (code : Byte) (s : State), s.port.phase = .noTransaction →
    exec (.unknownCode code) s = .next (s.answering [16])) ∧
  (∀ (c : Instr) (s : State), s.port.phase ≠ .noTransaction → isPortCommand c = true →
    exec c s = .next s) ∧
  (∀ (c : Instr) (s : State), s.port.phase = .noTransaction → isPortCommand c = true →
    ∃ t code fields, exec c s = .next t ∧ t.port = ⟨.taken, code :: fields⟩ ∧
      t.port.sdo 0 = some 0 ∧ t.port.sdo 1 = some 0 ∧ t.port.sdo 2 = some code ∧
      (∀ k b, fields[k]? = some b → t.port.sdo (3 + k) = some b) ∧
      ∀ k, fields.length ≤ k → t.port.sdo (3 + k) = some 0) ∧
  ∀ s : State, exec .transactionEnd s = .next { s with port := ⟨.noTransaction, []⟩ } ∧
    ∀ k, (⟨.noTransaction, []⟩ : Port).sdo k = none

/-- START in CONFIG: refused NO-IDENTITY without a station number; else RUNNING, the offset clamped,
the intake IDLE, the link in LISTEN, the first IDLE edition pending, WIND and LINK set, and STORM by
a level sense (R191, R20, R27, R49, R71). A frame in work at START is log entry 14. -/
def Obligations.StartEntersRunning : Prop :=
  ∀ (offset : W16) (s : State), s.port.phase = .noTransaction → s.part = .config →
    (s.cfg.station = 0 → exec (.start offset) s = .next (s.answering [14])) ∧
    (s.cfg.station ≠ 0 → AtRestInConfig s →
      ∃ t, exec (.start offset) s = .next t ∧
        t = { s with part := .running, port := ⟨.taken, [0]⟩, intake := none
                     engine := t.engine, link := t.link, builder := t.builder, holds := t.holds, attention := t.attention } ∧
        t.engine = { s.engine with offset := max (-300) (min 300 offset.toInt) } ∧
        t.builder = { s.builder with claimAge := 0 } ∧
        t.link.trail = ⟨.listen, .off, s.link.trail.first, s.link.trail.second⟩ ∧
        t.link.listenTimer = some (later s.now (s.cfg.listenMultiple * s.cfg.refreshPeriod)) ∧
        t.link.signalLoss = (if s.pins.light then none else some (later s.now 10)) ∧
        t.link.jitter = BitVec.ofNat 16 (s.cfg.station * 2 + 1) ∧ t.link.collisions = 0 ∧
        t.link.buffer = [] ∧ t.link.stage = .idle ∧ t.link.refresh = none ∧
        t.link.slot =
          ⟨some (t.edition .idle .normal 0 t.engine.offset t.engine.offset), true, false⟩ ∧
        t.holds = { Holds.reset with
          wind := true
          link := true
          storm := decide ((s.cfg.stormSense = .high ∧ s.pins.storm = true) ∨
            (s.cfg.stormSense = .low ∧ s.pins.storm = false))
          stormLatch := decide ((s.cfg.stormSense = .high ∧ s.pins.storm = true) ∨
            (s.cfg.stormSense = .low ∧ s.pins.storm = false)) } ∧
        t.attention = { s.attention with holdLatched := true })

/-- STOP in RUNNING while a move, or the park's grant, runs on: the part enters STOPPING, the queue
keeps the request in MOVING alone, a MOVE as it was and a sweep as it was but for its cancel-pending
mark, and the answer counts the rest (R133, R156, R173, R192). -/
def Obligations.StopLetsTheMoveRunOn : Prop :=
  ∀ s : State, s.port.phase = .noTransaction → s.part = .running →
    (s.engine.state = .moving ∨ (s.engine.state = .granted ∧ s.engine.work = .park)) →
    let kept := (s.queue.filter fun r => decide (r.position = .moving)).map
      (Request.modSweep fun w => { w with cancelPending := true })
    (∀ x ∈ kept, x.position = .moving ∧ x.endsAtStop = true) ∧
    exec .stop s = .next { s with
      part := .stopping
      port := ⟨.taken, [0, BitVec.ofNat 8 (s.queue.length - kept.length)]⟩
      queue := kept
      engine := { s.engine with yieldPause := none } }

/-- STOP in RUNNING with no move and no park under way: the queue is emptied, an intent is withdrawn, a
normal grant lapses and settling ends, each announced IDLE, and the final announcement is requested
at once: a link that is not READY enters OFF and the part CONFIG, cleared (R193); a READY link keeps
the part in STOPPING with the final IDLE edition pending (R37, R50). How the attempt begins is log
entry 13. -/
def Obligations.StopRequestsTheFinalAnnouncement : Prop :=
  ∀ s : State, s.port.phase = .noTransaction → s.part = .running → EngineLawful s →
    s.engine.state ≠ .moving → ¬(s.engine.state = .granted ∧ s.engine.work = .park) →
    s.holds.parkLatch = false → s.link.final = .none →
    ∃ t l, exec .stop s = .next t ∧
      let stopped := { s with
        part := .stopping
        port := ⟨.taken, [0, BitVec.ofNat 8 s.queue.length]⟩
        queue := []
        link := l
        engine := { s.engine with
          state := .idle, work := .none, grant := none, holdOff := none, expired := false
          echo := false, yieldPause := none, startTimeout := none, settle := none
          lapsedTag := if s.engine.state = .granted then s.engine.grant.map Grant.tag
            else s.engine.lapsedTag } }
      ((s.engine.state = .idle ∨ s.engine.state = .waiting) → l = s.link) ∧
      ((s.engine.state ≠ .idle ∧ s.engine.state ≠ .waiting) → AnnouncedIdle s stopped) ∧
      FinalRequested stopped t ∧
      (s.link.trail.current = .ready → t.part = .stopping ∧ t.link.final ≠ .none) ∧
      (s.link.trail.current ≠ .ready → t.part = .config ∧ t.link.trail.current = .off)

/-! ### The wind record -/

/-- WIND: WRONG-STATE in CONFIG; else the fold, the clamp, FRESH and the restarted timer, and the
WIND source clear (R10); with the source clear before, nothing else changes. -/
def Obligations.WindTakesReading : Prop :=
  ∀ (direction speed : W16) (s : State), s.port.phase = .noTransaction →
    (s.part = .config → exec (.wind direction speed) s = .next (s.answering [1])) ∧
    (s.part ≠ .config →
      ∃ t, exec (.wind direction speed) s = .next t ∧ t.port = ⟨.taken, [0]⟩ ∧
        t.holds.wind = false ∧
        t.wind = ⟨direction.toNat % 1024, min speed.toNat 400, .fresh,
          some (later s.now s.cfg.windExpiry)⟩ ∧
        (∀ k, hasKind s.recorder.status k = true → hasKind t.recorder.status k = true) ∧
        (s.holds.wind = false → t = { s.answering [0] with wind := t.wind }) ∧
        (s.holds.wind = true → SourceCleared { s.answering [0] with wind := t.wind } t .wind))

/-- The staleness expiry: STALE with D and U kept, WIND set, WIND-STALE raised without context, the
engine acting on the held set (R11, R160). Taken before the deadline or with the timer stopped
it changes nothing (log entry 2). -/
def Obligations.WindGoesStale : Prop :=
  ∀ s : State,
    (¬Reached s.wind.staleness s.now → exec .windStalenessExpiry s = .next s) ∧
    (Reached s.wind.staleness s.now → s.part ≠ .config → s.holds.wind = false →
      ∃ t, exec .windStalenessExpiry s = .next t ∧
        t = { s with wind := t.wind, holds := t.holds, attention := t.attention,
                     recorder := t.recorder, engine := t.engine, queue := t.queue,
                     link := t.link } ∧
        t.wind = { s.wind with condition := .stale, staleness := none } ∧
        t.recorder = s.recorder.raised s.cfg s.now .windStale ⟨none, none, none⟩ ∧
        t.attention.holdLatched = true ∧ HoldTakesEffect s t ∧
        t.holds = (if setsHalt s.cfg .windStale then { s.holds with wind := true, halt := true }
          else { s.holds with wind := true }))

/-! ### Requests -/

/-- The refusals of SUBMIT and SUBMIT_SWEEP in RUNNING, each in its place (R114, R115). -/
def Obligations.SubmissionsCheckedInOrder : Prop :=
  ∀ s : State, s.port.phase = .noTransaction → s.part = .running →
    (∀ tag cls target wf wd ef ed,
      let c := Instr.submit tag cls target wf wd ef ed
      (tag = 0 → exec c s = .next (s.answering [4])) ∧
      (tag ≠ 0 → 2 ≤ cls.toNat → exec c s = .next (s.answering [15])) ∧
      (tag ≠ 0 → cls.toNat < 2 →
        ((∃ r ∈ s.queue, r.tag = tag) → exec c s = .next (s.answering [3])) ∧
        ((∀ r ∈ s.queue, r.tag ≠ tag) → 8 ≤ s.queue.length →
          exec c s = .next (s.answering [2])))) ∧
    ∀ tag cls step count pacing interval policy,
      let c := Instr.submitSweep tag cls step count pacing interval policy
      (tag = 0 → exec c s = .next (s.answering [4])) ∧
      (tag ≠ 0 →
        (2 ≤ cls.toNat ∨ step = 0 ∨ 2 ≤ pacing.toNat ∨ (pacing = 1 ∧ 3 ≤ policy.toNat)) →
        exec c s = .next (s.answering [15])) ∧
      (tag ≠ 0 → cls.toNat < 2 → step ≠ 0 → pacing.toNat < 2 →
        (pacing = 1 → policy.toNat < 3) →
        ((∃ r ∈ s.queue, r.tag = tag) → exec c s = .next (s.answering [3])) ∧
        ((∀ r ∈ s.queue, r.tag ≠ tag) → 8 ≤ s.queue.length →
          exec c s = .next (s.answering [2])))

/-- An accepted SUBMIT or SUBMIT_SWEEP while the work is in the engine's hands: the record of R114 or
R115 is placed by class (R116). Committed, moving or settling, nothing else changes; in INTENT the
acceptance is an evaluation point (R135, R141). The parting of the classes is log entry 16. -/
def Obligations.SubmissionPlacedBehindWork : Prop :=
  ∀ (c : Instr) (r : Request) (s : State), s.port.phase = .noTransaction → s.part = .running →
    submissionOf s c = some r → (∀ x ∈ s.queue, x.tag ≠ r.tag) → s.queue.length < 8 →
    (∀ x ∈ s.queue, x.position ≠ .waiting) →
    let placed := { s.answering [0] with queue := placedByClass r s.queue }
    ((s.engine.state = .granted ∨ s.engine.state = .moving ∨ s.engine.state = .settling) →
      exec c s = .next placed) ∧
    (s.engine.state = .intent →
      ∃ t, exec c s = .next t ∧ EvaluationPoint false placed t)

/-- An accepted submission to an IDLE engine: the request is head in WAITING with its wait start set
(R113, R136) and is evaluated at once: a test keeps it there, or it enters INTENT with its edition
(R137, R139), or, as zero-length work, completes (R138). -/
def Obligations.SubmissionOnIdleEngine : Prop :=
  ∀ (c : Instr) (r : Request) (s : State), s.port.phase = .noTransaction → s.part = .running →
    submissionOf s c = some r → s.queue = [] → s.engine.state = .idle →
    let head := { r with position := .waiting, waitStart := some s.now }
    let s1 := { s.answering [0] with
      queue := [head], engine := { s.engine with state := .waiting, work := .request } }
    ∃ t, exec c s = .next t ∧ HeadEvaluated s1 t head []

/-- An accepted submission while a head stands in WAITING: it is placed by class, a NORMAL head that
a PRIORITY request displaces being QUEUED again; the front entry is head in WAITING, with its own wait
start, and the acceptance is an evaluation point (R113, R116, R135, R136). So under a hold a PRIORITY
request displaces a NORMAL head, which keeps its wait start and yield count as the first NORMAL
request, and a NORMAL one joins the back. The parting of the classes is log entry 16. -/
def Obligations.SubmissionToWaitingHead : Prop :=
  ∀ (c : Instr) (r head : Request) (rest : List Request) (s : State),
    s.port.phase = .noTransaction → s.part = .running → submissionOf s c = some r →
    s.queue = head :: rest → (∀ x ∈ s.queue, x.tag ≠ r.tag) →
    s.queue.length < 8 → head.position = .waiting → head.waitStart ≠ none →
    s.engine.state = .waiting → s.engine.work = .request →
    let sentBack := if head.cls = .normal then { head with position := .queued } else head
    let placed := { s.answering [0] with
      queue := match r.cls with
        | .normal => s.queue ++ [r]
        | .priority => modFront
            (fun x => { x with
              position := .waiting, waitStart := some (x.waitStart.getD s.now) })
            (placedByClass r (sentBack :: rest)) }
    (∃ t, exec c s = .next t ∧ EvaluationPoint false placed t) ∧
    (s.holds.held = true → (∀ x ∈ s.queue, x.cls = .normal) →
      exec c s = .next { s.answering [0] with
        queue :=
          match r.cls with
          | .priority =>
            { r with position := .waiting, waitStart := some s.now } ::
              { head with position := .queued } :: rest
          | .normal => head :: rest ++ [r] })

/-- EXTEND: its refusals in order, and the extension slot of a counted sweep (R127). -/
def Obligations.ExtendLoadsSlot : Prop :=
  ∀ (tag extension : W16) (s : State), s.port.phase = .noTransaction →
    (s.part ≠ .running → exec (.extend tag extension) s = .next (s.answering [1])) ∧
    (s.part = .running →
      ((∀ r ∈ s.queue, r.tag ≠ tag) →
        exec (.extend tag extension) s = .next (s.answering [5])) ∧
      ∀ r, findTag tag s.queue = some r →
        (r.isSweep = false → exec (.extend tag extension) s = .next (s.answering [9])) ∧
        ∀ w, r.job = .sweep w →
          (w.count = 0 → exec (.extend tag extension) s = .next (s.answering [10])) ∧
          (w.count ≠ 0 → 0 < extension.toNat → 0 < w.extension →
            exec (.extend tag extension) s = .next (s.answering [11])) ∧
          (w.count ≠ 0 → (extension.toNat = 0 ∨ w.extension = 0) →
            exec (.extend tag extension) s = .next { s.answering [0] with
              queue := changeTag tag
                (Request.modSweep fun v => { v with extension := min 255 extension.toNat })
                s.queue }))

/-- CONFIRM in RUNNING: refused unless the front entry is a sweep outside QUEUED; else its confirm
flag is set (R128), and where that makes the head's step eligible, a first step that a park has
displaced included (R172, log entry 11), the head is evaluated (R129). -/
def Obligations.ConfirmSetsFlag : Prop :=
  ∀ s : State, s.port.phase = .noTransaction → s.part = .running →
    (s.queue = [] → exec .confirm s = .next (s.answering [9])) ∧
    ∀ r rest, s.queue = r :: rest →
      ((r.isSweep = false ∨ r.position = .queued) →
        exec .confirm s = .next (s.answering [9])) ∧
      ∀ w, r.job = .sweep w → r.position ≠ .queued →
        let head := { r with job := .sweep { w with confirm := true } }
        let s1 := { s.answering [0] with queue := head :: rest }
        ∃ t, exec .confirm s = .next t ∧
          ((w.confirm = true ∨ w.pacing ≠ .released ∨ (w.stepsDone = 0 ∧ w.afterPark = false)) →
            t = s1) ∧
          (w.confirm = false → w.pacing = .released → (w.stepsDone ≠ 0 ∨ w.afterPark = true) →
            EvaluationPoint false s1 t)

/-- CANCEL outside CONFIG: its refusals in order, the removal of a request in QUEUED, and the mark
on a sweep in MOVING (R119). -/
def Obligations.CancelOfQueuedOrMoving : Prop :=
  ∀ (tag : W16) (s : State), s.port.phase = .noTransaction → s.part ≠ .config →
    ((∀ r ∈ s.queue, r.tag ≠ tag) → exec (.cancel tag) s = .next (s.answering [5])) ∧
    ∀ r, findTag tag s.queue = some r →
      (r.position = .moving → r.isSweep = false →
        exec (.cancel tag) s = .next (s.answering [6])) ∧
      (¬(r.position = .moving ∧ r.isSweep = false) → s.cfg.fullPolicy = .hold →
        14 ≤ s.log.records.length → exec (.cancel tag) s = .next (s.answering [12])) ∧
      (r.position = .queued → LogHasRoom s →
        exec (.cancel tag) s = .next { s.answering [0] with
          queue := withoutTag tag s.queue
          log := s.logWith (completionRecord s r .cancelled) }) ∧
      (r.position = .moving → r.isSweep = true →
        ¬(s.cfg.fullPolicy = .hold ∧ 14 ≤ s.log.records.length) →
        exec (.cancel tag) s = .next { s.answering [0] with
          queue := changeTag tag (Request.modSweep fun w => { w with cancelPending := true })
            s.queue })

/-- CANCEL of the head: the intent is withdrawn or the grant lapses with its tag, the head leaves
with a CANCELLED record, and the engine is IDLE if the queue is empty; a sweep in SETTLING
leaves while the engine settles on (R119, R143, R150). -/
def Obligations.CancelOfHead : Prop :=
  ∀ (tag : W16) (r : Request) (s : State), s.port.phase = .noTransaction → s.part ≠ .config →
    findTag tag s.queue = some r → LogHasRoom s →
    (r.position = .settling → exec (.cancel tag) s = .next { s.answering [0] with
      queue := withoutTag tag s.queue
      engine := { s.engine with work := .none }
      log := s.logWith (completionRecord s r .cancelled) }) ∧
    ((r.position = .waiting ∨ r.position = .intent ∨ r.position = .granted) →
      ∃ t, exec (.cancel tag) s = .next t ∧ t.port = ⟨.taken, [0]⟩ ∧
        (∀ x ∈ t.queue, x.tag ≠ tag) ∧
        (s.logWith (completionRecord s r .cancelled)).records <+: t.log.records ∧
        (s.queue = [r] →
          t = { s.answering [0] with
            queue := []
            link := t.link
            engine := t.engine
            log := s.logWith (completionRecord s r .cancelled) } ∧
          (r.position = .waiting →
            t.link = s.link ∧ t.engine = { s.engine with state := .idle, work := .none }) ∧
          (r.position = .intent →
            AnnouncedIdle s t ∧
            t.engine = { s.engine with
              state := .idle, work := .none, holdOff := none, expired := false, echo := false }) ∧
          (r.position = .granted →
            AnnouncedIdle s t ∧
            t.engine = { s.engine with
              state := .idle
              work := .none
              startTimeout := none
              grant := none
              lapsedTag := (s.engine.grant.map Grant.tag).or s.engine.lapsedTag })))

/-- The waive time reached: the deadline is over, for the head an evaluation point (R121), and a head in
WAITING that passes the tests other than the map's enters INTENT (R137). With no such deadline
nothing changes (log entry 2). -/
def Obligations.WaiveTimeReached : Prop :=
  ∀ (tag : W16) (s : State),
    (findTag tag s.queue = none → exec (.waiveTime tag) s = .next s) ∧
    ∀ r m, findTag tag s.queue = some r → r.job = .move m →
      (¬(m.waiveRuns = true ∧ Reached m.waiveTime s.now) →
        exec (.waiveTime tag) s = .next s) ∧
      (m.waiveRuns = true → Reached m.waiveTime s.now →
        let s1 := { s with
          queue := changeTag tag (Request.modMove fun v => { v with waiveRuns := false }) s.queue }
        ∃ t, exec (.waiveTime tag) s = .next t ∧
          ((r.position ≠ .waiting ∧ r.position ≠ .intent) → t = s1) ∧
          ((r.position = .waiting ∨ r.position = .intent) → EvaluationPoint false s1 t) ∧
          ∀ rest, s.queue = r :: rest → r.position = .waiting → s.engine.state = .waiting →
            s.holds.held = false → m.expiredPending = false → m.target ≠ s.engine.offset →
            s.engine.yieldPause = none → activeCount s.neighbours < s.cfg.budget →
            EntersIntent s1 t { r with job := .move { m with waiveRuns := false } } s1.queue.tail)

/-- The expiry time reached: no effect from GRANTED on; deferred at the guard level in QUEUED and
WAITING; else the request leaves with an EXPIRED record, an intent withdrawn first and offered
at every log count: a full log drops the record and OUTCOME-LOST is raised, and 15 records set GUARD
under HOLD (R122, R123, R176, R178). -/
def Obligations.ExpiryTimeReached : Prop :=
  ∀ (tag : W16) (s : State),
    (findTag tag s.queue = none → exec (.expiryTime tag) s = .next s) ∧
    ∀ r m, findTag tag s.queue = some r → r.job = .move m →
      (¬(m.expiryRuns = true ∧ Reached m.expiryTime s.now) →
        exec (.expiryTime tag) s = .next s) ∧
      (m.expiryRuns = true → Reached m.expiryTime s.now →
        ((r.position = .granted ∨ r.position = .moving ∨ r.position = .settling) →
          exec (.expiryTime tag) s = .next s) ∧
        ((r.position = .queued ∨ r.position = .waiting) → s.cfg.fullPolicy = .hold →
          14 ≤ s.log.records.length →
          exec (.expiryTime tag) s = .next { s with
            queue := changeTag tag
              (Request.modMove fun v => { v with expiryRuns := false, expiredPending := true })
              s.queue }) ∧
        (r.position = .queued → LogHasRoom s →
          exec (.expiryTime tag) s = .next { s with
            queue := withoutTag tag s.queue
            log := s.logWith (completionRecord s r .expired) }) ∧
        ((r.position = .waiting ∨ r.position = .intent) → LogHasRoom s →
          ∃ t, exec (.expiryTime tag) s = .next t ∧ (∀ x ∈ t.queue, x.tag ≠ tag) ∧
            (s.logWith (completionRecord s r .expired)).records <+: t.log.records) ∧
        (r.position = .intent → s.queue = [r] →
          ∃ t, exec (.expiryTime tag) s = .next t ∧ t.queue = [] ∧
            t.log = s.log.offered (completionRecord s r .expired) ∧
            t.builder = s.builder ∧ AnnouncedIdle s t ∧
            (s.part ≠ .config →
              t.recorder = s.recorderOffered (completionRecord s r .expired) ∧
              t.holds = s.holdsOffered (completionRecord s r .expired) ∧
              t.attention = (if t.holds = s.holds then s.attention
                else { s.attention with holdLatched := true })) ∧
            t.engine = { s.engine with
              state := .idle, work := .none, holdOff := none, expired := false, echo := false }))

/-- The pace deadline reached (R130, R131): confirmed, or unconfirmed under REPEAT, the step is
eligible; under SKIP a further deadline is set; under END the sweep leaves UNCONFIRMED, or is
flagged at the guard level. An eligible step of the head is an evaluation point. An under-run under REPEAT or SKIP latches SWEEP as underrun. An END
under-run latches nothing, and a deadline not due changes nothing (log entries 12, 2). -/
def Obligations.PaceDeadlineJudged : Prop :=
  ∀ (tag : W16) (s : State),
    (findTag tag s.queue = none → exec (.paceDeadline tag) s = .next s) ∧
    ∀ r w, findTag tag s.queue = some r → r.job = .sweep w →
      (¬Reached w.paceDeadline s.now → exec (.paceDeadline tag) s = .next s) ∧
      ∀ interval policy, w.pacing = .paced interval policy → Reached w.paceDeadline s.now →
        ((w.confirm = true ∨ policy = .repeatStep) →
          let s1 := { s with
            queue := changeTag tag (Request.modSweep fun v => { v with paceDeadline := none })
              s.queue
            attention := if w.confirm then s.attention
              else { s.attention with sweepUnderrun := true } }
          ∃ t, exec (.paceDeadline tag) s = .next t ∧
            (r.position ≠ .waiting → t = s1) ∧
            (r.position = .waiting → EvaluationPoint false s1 t)) ∧
        (w.confirm = false → policy = .skip →
          exec (.paceDeadline tag) s = .next { s with
            queue := changeTag tag
              (Request.modSweep fun v =>
                { v with paceDeadline := some (later s.now interval) }) s.queue
            attention := { s.attention with sweepUnderrun := true } }) ∧
        (w.confirm = false → policy = .endSweep →
          ((r.position = .queued ∨ r.position = .waiting) → s.cfg.fullPolicy = .hold →
            14 ≤ s.log.records.length →
            exec (.paceDeadline tag) s = .next { s with
              queue := changeTag tag
                (Request.modSweep fun v =>
                  { v with paceDeadline := none, unconfirmedPending := true }) s.queue }) ∧
          (r.position = .queued → LogHasRoom s →
            exec (.paceDeadline tag) s = .next { s with
              queue := withoutTag tag s.queue
              log := s.logWith (completionRecord s r .unconfirmed) }) ∧
          (r.position = .settling → LogHasRoom s →
            exec (.paceDeadline tag) s = .next { s with
              queue := withoutTag tag s.queue
              engine := { s.engine with work := .none }
              log := s.logWith (completionRecord s r .unconfirmed) }) ∧
          (r.position = .waiting → LogHasRoom s →
            ∃ t, exec (.paceDeadline tag) s = .next t ∧ (∀ x ∈ t.queue, x.tag ≠ tag) ∧
              (s.logWith (completionRecord s r .unconfirmed)).records <+: t.log.records))

/-! ### The stagger engine -/

/-- The six tests of R137, at the expiry of the yield pause (R144): the head stays in WAITING at the
first test that keeps it, enters INTENT when all pass, and zero-length work completes without an
edition or a move number (R138). What the tests read: the target (R106, R124), the eligibility
(R123, R129 to R131, R172), the quiet condition over the run length (R106, R107, R121) and the active
count (R66). A completion comes before the next head (log entry 10); a displaced first step is log
entry 11. -/
def Obligations.WaitingHeadTests : Prop :=
  (∀ s : State,
    (¬Reached s.engine.yieldPause s.now → exec .yieldPauseExpiry s = .next s) ∧
    (Reached s.engine.yieldPause s.now →
      let s1 := { s with engine := { s.engine with yieldPause := none } }
      ∃ t, exec .yieldPauseExpiry s = .next t ∧
        (s.engine.state ≠ .waiting → t = s1) ∧ (s.queue = [] → t = s1) ∧
        ∀ r rest, s.queue = r :: rest → s.engine.state = .waiting →
          HeadEvaluated s1 t r rest)) ∧
  (∀ (r : Request) (s : State),
    requestTarget s.cfg s.engine.offset r =
      (match r.job with
        | .move m => m.target
        | .sweep w =>
          max (-(s.cfg.limit : Int)) (min (s.cfg.limit : Int) (s.engine.offset + w.step))) ∧
    (r.eligible = true ↔
      match r.job with
      | .move m => m.expiredPending = false
      | .sweep w => w.unconfirmedPending = false ∧
        match w.pacing with
        | .released => w.confirm = true ∨ (w.stepsDone = 0 ∧ w.afterPark = false)
        | .paced _ _ => w.paceDeadline = none) ∧
    (s.quietMap.bins.length = 32 →
      let change := (requestTarget s.cfg s.engine.offset r - s.engine.offset).natAbs
      let duration := (100 * change + s.cfg.yawRate - 1) / s.cfg.yawRate
      let period := match s.cfg.periodCode with | 0 => 10 | 1 => 20 | 2 => 50 | _ => 100
      let run := min 32 ((duration + s.cfg.ownSettle + period - 1) / period)
      (quietMet s r = true ↔
        (∃ m, r.job = .move m ∧ Reached m.waiveTime s.now) ∨
          (s.quietMap.bins[0]? = some .clear ∧ ∀ k, k < run → s.quietMap.bins[k]? = some .clear)))) ∧
  ∀ ns : List Neighbour, activeCount ns = (ns.filter fun n =>
    decide (n.inRadius = true ∧ (n.phase = .committed ∨ n.phase = .moving))).length

/-- BEGUN: the match with the grant record, else STALE-GRANT, else NO-GRANT (R151); and what the
entry to MOVING stops, records, starts and announces (R152). -/
def Obligations.BegunStartsMove : Prop :=
  ∀ (tag : W16) (s : State), s.port.phase = .noTransaction →
    (s.part = .config → exec (.begun tag) s = .next (s.answering [1])) ∧
    (s.part ≠ .config → ¬(s.engine.state = .granted ∧ s.engine.grant.map Grant.tag = some tag) →
      (s.engine.lapsedTag = some tag → exec (.begun tag) s = .next (s.answering [8])) ∧
      (s.engine.lapsedTag ≠ some tag → exec (.begun tag) s = .next (s.answering [7]))) ∧
    ∀ g, s.part ≠ .config → s.engine.state = .granted → s.engine.grant = some g → g.tag = tag →
      ∃ t, exec (.begun tag) s = .next t ∧
        t = { s.answering [0] with
          engine := { s.engine with
            state := .moving
            startTimeout := none
            overrun := some
              (later s.now (g.duration + (g.duration * s.cfg.overrunMargin + 99) / 100)) }
          builder := { s.builder with
            refs := { s.builder.refs with
              begun := some s.now, expectedEnd := some (later s.now g.duration) } }
          queue := if s.engine.work = .request then
            modFront (fun r => { r with position := .moving }) s.queue else s.queue
          link := t.link } ∧
        Announced s t .moving g.cls 0 g.fromOffset g.target

/-- ENDED: NO-GRANT unless the engine is in MOVING with that tag; else the clamped offset becomes
the current offset, a MOVE completes DONE with it, BAD-ENDED is raised outside the tolerance,
and the engine settles for S_o, or with S_o = 0 does at once what the settle expiry does: IDLE
announced, and the next head, if there is one, taken and evaluated (R6, R7, R154, R155). -/
def Obligations.EndedCompletesMove : Prop :=
  ∀ (tag achieved : W16) (s : State), s.port.phase = .noTransaction →
    (s.part = .config → exec (.ended tag achieved) s = .next (s.answering [1])) ∧
    (s.part ≠ .config → ¬(s.engine.state = .moving ∧ s.engine.grant.map Grant.tag = some tag) →
      exec (.ended tag achieved) s = .next (s.answering [7])) ∧
    ∀ g r rest m, s.part = .running → s.engine.state = .moving → s.engine.work = .request →
      s.engine.grant = some g → g.tag = tag → s.queue = r :: rest → r.job = .move m →
      s.holds.parkLatch = false → LogHasRoom s →
      let a := max (-300) (min 300 achieved.toInt)
      let ended := { s.builder.refs with ended := some s.now }
      let s1 := { s.answering [0] with
        queue := withoutTag r.tag s.queue
        log := s.logWith { completionRecord s r .done with finalOffset := a } }
      ∃ t, exec (.ended tag achieved) s = .next t ∧
        ((0 < s.cfg.ownSettle ∨ rest = []) →
          t.recorder = (if s.cfg.endedTolerance < (a - g.target).natAbs then
            s.recorder.raised s.cfg s.now .badEnded ⟨none, none, some tag⟩ else s.recorder) ∧
          (((a - g.target).natAbs ≤ s.cfg.endedTolerance ∨ setsHalt s.cfg .badEnded = false) →
            t.holds = s.holds ∧ t.attention = s.attention)) ∧
        (0 < s.cfg.ownSettle →
          t = { s1 with
            engine := { s.engine with
              state := .settling, work := .none, offset := a, overrun := none
              settle := some (later s.now s.cfg.ownSettle) }
            builder := { s.builder with
              refs := { ended with settle := some (later s.now s.cfg.ownSettle) } }
            link := t.link, recorder := t.recorder, holds := t.holds
            attention := t.attention } ∧
          Announced s t .settling g.cls 0 g.fromOffset g.target) ∧
        (s.cfg.ownSettle = 0 → rest = [] →
          t = { s1 with
            queue := []
            engine := { s.engine with
              state := .idle, work := .none, offset := a, overrun := none, settle := none
              grant := none }
            builder := { s.builder with refs := ended }
            link := t.link, recorder := t.recorder, holds := t.holds
            attention := t.attention } ∧
          AnnouncedIdle s t) ∧
        ∀ x more, s.cfg.ownSettle = 0 → rest = x :: more → (∀ y ∈ rest, y.tag ≠ r.tag) →
          (a - g.target).natAbs ≤ s.cfg.endedTolerance →
          let head := { x with
            position := .waiting, waitStart := some (x.waitStart.getD s.now) }
          ∃ l, let taken := { s1 with
              queue := head :: more
              engine := { s.engine with
                state := .waiting, work := .request, offset := a, overrun := none, settle := none
                grant := none }
              builder := { s.builder with refs := ended }
              link := l }
            AnnouncedIdle s taken ∧ HeadEvaluated taken t head more

/-- The last ENDED of STOPPING: the MOVE completes DONE, or the sweep, marked cancel-pending by the
STOP, CANCELLED with its steps done and its extension discarded (R125, R133); the engine is IDLE, and
the final announcement is requested within the event; without a READY link the part enters CONFIG in
it (R37, R50, R156, R192, R193). How the final attempt begins is log entry 13. -/
def Obligations.EndedFinishesStop : Prop :=
  ∀ (tag achieved : W16) (g : Grant) (r : Request) (s : State),
    s.port.phase = .noTransaction → s.part = .stopping → s.engine.state = .moving →
    s.engine.work = .request → s.engine.grant = some g → g.tag = tag → s.queue = [r] →
    r.endsAtStop = true → s.holds.parkLatch = false → s.link.final = .none → LogHasRoom s →
    let a := max (-300) (min 300 achieved.toInt)
    let record := match r.job with
      | .move _ => completionRecord s r .done
      | .sweep w => completionRecord s { r with job := .sweep (w.afterStep s.now) } .cancelled
    ∃ t l, exec (.ended tag achieved) s = .next t ∧ t.port = ⟨.taken, [0]⟩ ∧ t.queue = [] ∧
      t.log = s.logWith { record with finalOffset := a } ∧
      t.engine.state = .idle ∧ t.engine.work = .none ∧ t.engine.grant = none ∧
      t.engine.overrun = none ∧ t.engine.offset = a ∧ t.builder.move = s.builder.move ∧
      t.engine.lapsedTag = s.engine.lapsedTag ∧
      (s.link.trail.current = .ready → t.part = .stopping ∧ t.link.final ≠ .none) ∧
      (s.link.trail.current ≠ .ready → t.part = .config ∧ t.link.trail.current = .off) ∧
      ((a - g.target).natAbs ≤ s.cfg.endedTolerance →
        let done := { s.answering [0] with
          queue := []
          log := t.log
          engine := { s.engine with
            state := .idle, work := .none, offset := a, overrun := none, grant := none }
          builder := { s.builder with
            refs := { s.builder.refs with ended := some s.now } }
          link := l }
        AnnouncedIdle s done ∧ FinalRequested done t)

/-- The ENDED of a sweep's step: the counts, the confirm flag, the pace deadline, and in order the
cancel, the extension, SWEEP-DONE, or the next step with its yield count at 0 (R125, R126). -/
def Obligations.EndedStepsSweep : Prop :=
  ∀ (tag achieved : W16) (g : Grant) (r : Request) (rest : List Request) (w : SweepJob)
    (s : State), s.port.phase = .noTransaction → s.part = .running → s.engine.state = .moving →
    s.engine.work = .request → s.engine.grant = some g → g.tag = tag → s.queue = r :: rest →
    r.job = .sweep w → s.holds.parkLatch = false → 0 < s.cfg.ownSettle → LogHasRoom s →
    let a := max (-300) (min 300 achieved.toInt)
    (a - g.target).natAbs ≤ s.cfg.endedTolerance →
    let w1 : SweepJob := { w with
      stepsDone := min 65535 (w.stepsDone + 1)
      remaining := if w.count = 0 then w.remaining else w.remaining - 1
      confirm := false
      afterPark := false
      paceDeadline := match w.pacing with
        | .released => w.paceDeadline
        | .paced interval _ => some (later s.now interval) }
    let ends := fun o => { s.answering [0] with
      queue := withoutTag r.tag s.queue
      log := s.logWith { completionRecord s { r with job := .sweep w1 } o with finalOffset := a } }
    let goesOn := fun v => { s.answering [0] with
      queue := { r with position := .settling, job := .sweep v, yields := 0 } :: rest }
    let settles := fun (work : HeadWork) (s1 : State) =>
      ∃ t, exec (.ended tag achieved) s = .next t ∧
        t = { s1 with
          link := t.link
          engine := { s.engine with
            state := .settling, work := work, offset := a, overrun := none
            settle := some (later s.now s.cfg.ownSettle) }
          builder := { s.builder with
            refs := { s.builder.refs with
              ended := some s.now, settle := some (later s.now s.cfg.ownSettle) } } } ∧
        Announced s t .settling g.cls 0 g.fromOffset g.target
    (w.cancelPending = true → settles .none (ends .cancelled)) ∧
    (w.cancelPending = false → w.count ≠ 0 → w1.remaining = 0 →
      (w.extension = 0 → settles .none (ends .sweepDone)) ∧
      (0 < w.extension → settles .request
        { goesOn { w1 with remaining := w.extension, extension := 0 } with
          attention := { s.attention with sweepExtended := true } })) ∧
    (w.cancelPending = false → (w.count = 0 ∨ w1.remaining ≠ 0) →
      settles .request (goesOn w1))

/-- ENDED and the park. The ENDED of a MOVE or of a sweep's step with the PARK latch set does what it
does without it, the request completing or going on, and then in place of settling the engine enters
GRANTED for the park, a sweep that goes on back in QUEUED (R169, R170, R172, log entry 11); with the
park target reached at that ENDED the park completes PARKED at once and the ended move goes on: it
settles, with S_o = 0 and an empty queue the engine is IDLE, and in STOPPING the final announcement is
requested (R170, R171, R173). The park's own ENDED, with tag 0, offers PARKED with its wait and clears the latch and the
PARK source; then the engine settles, or is IDLE with S_o = 0 and an empty queue, or in STOPPING is
IDLE and the final announcement is requested (R170, R171, R173). How the final attempt begins is log
entry 13. -/
def Obligations.EndedServesPark : Prop :=
  ∀ (tag achieved : W16) (g : Grant) (s : State), s.port.phase = .noTransaction →
    s.part ≠ .config → s.engine.state = .moving → s.engine.grant = some g → g.tag = tag →
    LogHasRoom s →
    let a := max (-300) (min 300 achieved.toInt)
    let target := max (-(s.cfg.limit : Int)) (min (s.cfg.limit : Int) s.cfg.parkOffset)
    let ended := { s.builder.refs with ended := some s.now }
    let settled := { s.builder with
      refs := { ended with settle := some (later s.now s.cfg.ownSettle) } }
    let settling := fun work : HeadWork => { s.engine with
      state := .settling, work := work, offset := a, overrun := none
      settle := some (later s.now s.cfg.ownSettle) }
    let unlatched := { s.holds with
      park := false, parkLatch := false, parkLatchedAt := none, parkGrantedAt := none }
    (a - g.target).natAbs ≤ s.cfg.endedTolerance →
    (∀ r rest r1 o, s.engine.work = .request → s.queue = r :: rest →
      s.holds.parkLatch = true → r.afterEnded s.now = (r1, o) →
      let s1 := match o with
        | some outcome => { s.answering [0] with
            queue := withoutTag r.tag s.queue
            log := s.logWith { completionRecord s r1 outcome with finalOffset := a } }
        | none => { s.answering [0] with
            queue := r1 :: rest
            attention := if r.extends then { s.attention with sweepExtended := true }
              else s.attention }
      (target ≠ a →
        ∃ t, exec (.ended tag achieved) s = .next t ∧
          t = { s1 with
            queue := if o = none then r1.displacedByPark :: rest else s1.queue
            engine := { s.engine with
              state := .granted, work := .park, offset := a, overrun := none, expired := false
              echo := false, settle := none
              grant := some ⟨.park, 0, .priority, s.builder.move + 1, a, target,
                moveDuration s.cfg (target - a)⟩ }
            builder := { s.builder with
              move := s.builder.move + 1, refs := { ended with startTimeout := none } }
            holds := { s.holds with parkGrantedAt := some s.now }
            link := t.link } ∧
          Announced s t .committed .priority 0 a target) ∧
      (∀ latched, target = a → s.part = .running → 0 < s.cfg.ownSettle → s.holds.park = true →
        s.holds.parkLatchedAt = some latched → LogHasRoom s1 →
        ∃ t, exec (.ended tag achieved) s = .next t ∧
          t = { s1 with
            queue := if o = none then { r1 with position := .settling } :: rest else s1.queue
            log := s1.logWith ⟨0, .park, .parked, a, min (s.now - latched) 65535, 0, 0⟩
            engine := settling (if o = none then .request else .none)
            builder := settled
            holds := unlatched
            attention := { s1.attention with holdLatched := true }
            link := t.link } ∧
          Announced s t .settling g.cls 0 g.fromOffset g.target) ∧
      (∀ latched outcome, target = a → o = some outcome → withoutTag r.tag s.queue = [] →
        s.holds.park = true → s.holds.parkLatchedAt = some latched → LogHasRoom s1 →
        let idle := { s1 with
          log := s1.logWith ⟨0, .park, .parked, a, min (s.now - latched) 65535, 0, 0⟩
          engine := { s.engine with
            state := .idle, work := .none, offset := a, overrun := none, grant := none }
          builder := { s.builder with refs := ended }
          holds := unlatched
          attention := { s.attention with holdLatched := true } }
        ∃ t, exec (.ended tag achieved) s = .next t ∧
          (s.part = .running → s.cfg.ownSettle = 0 →
            t = { idle with
              engine := { idle.engine with settle := none }
              link := t.link } ∧
            AnnouncedIdle s t) ∧
          (s.part = .stopping → s.link.final = .none →
            ∃ l, AnnouncedIdle s { idle with link := l } ∧
              FinalRequested { idle with link := l } t))) ∧
    (∀ latched granted, s.engine.work = .park → s.holds.parkLatchedAt = some latched →
      s.holds.parkGrantedAt = some granted → s.holds.park = true →
      let s1 := { s.answering [0] with
        log := s.logWith ⟨0, .park, .parked, a, min (granted - latched) 65535, 0, 0⟩
        holds := unlatched
        attention := { s.attention with holdLatched := true } }
      let idle := { s.engine with
        state := .idle, work := .none, offset := a, overrun := none, grant := none }
      ∃ t, exec (.ended tag achieved) s = .next t ∧
        (s.part = .running → 0 < s.cfg.ownSettle →
          t = { s1 with engine := settling .none, builder := settled, link := t.link } ∧
          Announced s t .settling g.cls 0 g.fromOffset g.target) ∧
        (s.part = .running → s.cfg.ownSettle = 0 → s.queue = [] →
          t = { s1 with
            engine := { idle with settle := none }
            builder := { s.builder with refs := ended }
            link := t.link } ∧
          AnnouncedIdle s t) ∧
        (s.part = .stopping → s.link.final = .none →
          ∃ l, let done := { s1 with
              engine := idle, builder := { s.builder with refs := ended }, link := l }
            AnnouncedIdle s done ∧ FinalRequested done t))

/-- The hold-off expiry in INTENT (R145): without the echo only the marker is set; with it the
commit test withdraws (R143), yields up to the limit (R142), or enters GRANTED (R147 to R149). The
contenders it counts are the active count and the in-radius intents that outrank the own (R66 to
R68). -/
def Obligations.HoldOffExpiryCommits : Prop :=
  (∀ (r : Request) (rest : List Request) (s : State),
    (¬Reached s.engine.holdOff s.now → exec .holdOffExpiry s = .next s) ∧
    (Reached s.engine.holdOff s.now → s.engine.state = .intent → s.queue = r :: rest →
      (s.engine.echo = false → exec .holdOffExpiry s = .next { s with
        engine := { s.engine with expired := true, holdOff := none } }) ∧
      (s.engine.echo = true →
        ∃ t, exec .holdOffExpiry s = .next t ∧ CommitTested s t r rest))) ∧
  ∀ (cls : Cls) (age station : Nat) (ns : List Neighbour),
    outrankingCountOf cls age station ns = (ns.filter fun n =>
      decide (n.inRadius = true ∧ n.phase = .intent ∧
        ((n.cls = .priority ∧ cls = .normal) ∨
          (n.cls = cls ∧
            (age < n.claimAge ∨ (n.claimAge = age ∧ n.station < station)))))).length

/-- The commit invariant of R145: whatever the command, the engine comes to stand in GRANTED for
normal work only out of an INTENT, with no hold source set, its INTENT edition echoed good, before or
by this very frame, which gives back the bytes sent of the current edition (R30, R48, R140), the
hold-off run out, the quiet condition met, and the active and the outranking count together below the
budget. -/
def Obligations.CommitOnlyWhen : Prop :=
  ∀ (c : Instr) (s t : State), exec c s = .next t → s.engine.state ≠ .granted →
    t.engine.state = .granted → t.engine.work = .request →
    s.engine.state = .intent ∧ t.holds.held = false ∧
    (s.engine.echo = true ∨
      (c = .frameReceived (.delimited s.link.sent) ∧ s.link.stage = .echoWait ∧
        s.link.sentCurrent = true ∧ s.link.slot.confirmed = false ∧
        (wellFormedFrame (.delimited s.link.sent)).map Frame.station = some s.cfg.station ∧
        s.link.slot.edition.map Edition.phase = some .intent)) ∧
    (s.engine.expired = true ∨ (c = .holdOffExpiry ∧ Reached s.engine.holdOff s.now)) ∧
    ∃ r rest, t.queue = r :: rest ∧ r.position = .granted ∧ quietMet t r = true ∧
      activeCount t.neighbours +
        outrankingCountOf r.cls t.builder.claimAge t.cfg.station t.neighbours < t.cfg.budget ∧
      t.engine.grant = some ⟨.request, r.tag, r.cls, s.builder.move + 1, s.engine.offset,
        requestTarget s.cfg s.engine.offset r,
        moveDuration s.cfg (requestTarget s.cfg s.engine.offset r - s.engine.offset)⟩

/-- The start timeout in GRANTED for normal work: NO-START is raised with the grant's tag, the grant
lapses, and the head leaves with a NO-START record (R149, R150). -/
def Obligations.StartTimeoutLapsesGrant : Prop :=
  ∀ s : State,
    (¬Reached s.engine.startTimeout s.now → exec .startTimeoutExpiry s = .next s) ∧
    ∀ g r rest, Reached s.engine.startTimeout s.now → s.engine.state = .granted →
      s.engine.work = .request → s.engine.grant = some g → s.queue = r :: rest →
      LogHasRoom s →
      ∃ t, exec .startTimeoutExpiry s = .next t ∧ (∀ x ∈ t.queue, x.tag ≠ r.tag) ∧
        t.engine.grant = none ∧ t.engine.startTimeout = none ∧
        t.engine.lapsedTag = some g.tag ∧ t.builder.move = s.builder.move ∧
        (s.logWith (completionRecord s r .noStart)).records <+: t.log.records ∧
        (rest = [] → t.queue = [] ∧ t.log = s.logWith (completionRecord s r .noStart) ∧
          t.recorder = s.recorder.raised s.cfg s.now .noStart ⟨none, none, some g.tag⟩ ∧
          AnnouncedIdle s t ∧
          (setsHalt s.cfg .noStart = false → t.holds = s.holds) ∧
          t.engine = { s.engine with
            state := .idle, work := .none, grant := none, startTimeout := none
            lapsedTag := some g.tag })

/-- The overrun timer in MOVING: MOVE-OVERRUN is raised with the grant's tag, once; the move goes on
(R153), and a FATAL kind sets HALT (R182). -/
def Obligations.OverrunRaisesFault : Prop :=
  ∀ s : State,
    (¬Reached s.engine.overrun s.now → exec .overrunExpiry s = .next s) ∧
    ∀ g, Reached s.engine.overrun s.now → s.engine.state = .moving →
      s.engine.grant = some g → s.part ≠ .config →
      exec .overrunExpiry s = .next { s with
        engine := { s.engine with overrun := none }
        recorder := s.recorder.raised s.cfg s.now .moveOverrun ⟨none, none, some g.tag⟩
        holds := if setsHalt s.cfg .moveOverrun then { s.holds with halt := true } else s.holds
        attention := { s.attention with
          holdLatched := s.attention.holdLatched ||
            (setsHalt s.cfg .moveOverrun && !s.holds.halt) } }

/-- The settle expiry: the grant record is absent, the front entry is head in WAITING or the engine
is IDLE, and the IDLE edition carries the achieved offset (R155); the head is then evaluated at
once. -/
def Obligations.SettleExpiryTakesNextHead : Prop :=
  ∀ s : State,
    (¬Reached s.engine.settle s.now → exec .settleExpiry s = .next s) ∧
    (Reached s.engine.settle s.now → s.engine.state = .settling →
      ∃ t, exec .settleExpiry s = .next t ∧ t.engine.grant = none ∧ t.engine.settle = none ∧
        (s.queue = [] → AnnouncedIdle s t ∧
          t = { s with
            link := t.link
            engine := { s.engine with
              state := .idle, work := .none, grant := none, settle := none } }) ∧
        ∀ r rest, s.queue = r :: rest →
          let head := { r with
            position := .waiting, waitStart := some (r.waitStart.getD s.now) }
          ∃ l, let taken := { s with
              queue := head :: rest
              engine := { s.engine with
                state := .waiting, work := .request, grant := none, settle := none }
              link := l }
            AnnouncedIdle s taken ∧ HeadEvaluated taken t head rest)

/-! ### Holds and the emergency park -/

/-- HOLD, RELEASE and RESUME outside CONFIG: each answered OK, SOFT set and clear (R165), HALT clear; or
RESUME is refused FAULT-PENDING while a FATAL kind stands in the status (R184). A repeated one
changes nothing. A head in WAITING is evaluated once the set is empty (R160). -/
def Obligations.HoldReleaseResume : Prop :=
  ∀ s : State, s.port.phase = .noTransaction → s.part ≠ .config →
    (s.holds.soft = true → exec .hold s = .next (s.answering [0])) ∧
    (s.holds.soft = false → ∃ t, exec .hold s = .next t ∧ t.port = ⟨.taken, [0]⟩ ∧
      t.holds = { s.holds with soft := true } ∧ SourceSet (s.answering [0]) t .soft) ∧
    (s.holds.soft = false → exec .release s = .next (s.answering [0])) ∧
    (s.holds.soft = true → ∃ t, exec .release s = .next t ∧ t.port = ⟨.taken, [0]⟩ ∧
      t.holds.soft = false ∧ SourceCleared (s.answering [0]) t .soft) ∧
    (s.recorder.status &&& s.cfg.faultSeverities ≠ 0 →
      exec .resume s = .next (s.answering [13])) ∧
    (s.recorder.status &&& s.cfg.faultSeverities = 0 →
      (s.holds.halt = false → exec .resume s = .next (s.answering [0])) ∧
      (s.holds.halt = true → ∃ t, exec .resume s = .next t ∧ t.port = ⟨.taken, [0]⟩ ∧
        SourceCleared (s.answering [0]) t .halt ∧
        (∀ r rest, s.queue = r :: rest → s.engine.state = .waiting →
          HeadStays { s with holds := { s.holds with halt := false } } r →
          t.holds = { s.holds with halt := false })))

/-- CLEAR HOLD outside CONFIG: BAD-VALUE for a source other than STORM; the latch and the source are
cleared, unless a level sense finds the observed line active, or the latch is clear (R164). -/
def Obligations.ClearHoldStorm : Prop :=
  ∀ (source : Byte) (s : State), s.port.phase = .noTransaction → s.part ≠ .config →
    (source ≠ 0 → exec (.clearHold source) s = .next (s.answering [15])) ∧
    (source = 0 → s.holds.stormLatch = false →
      exec (.clearHold source) s = .next (s.answering [0])) ∧
    (source = 0 → s.link.final = .none →
      ((s.cfg.stormSense = .high ∧ s.pins.storm = true) ∨
        (s.cfg.stormSense = .low ∧ s.pins.storm = false)) →
      exec (.clearHold source) s = .next (s.answering [0])) ∧
    (source = 0 → s.holds.stormLatch = true → s.holds.storm = true →
      (s.cfg.stormSense = .high → s.pins.storm = false) →
      (s.cfg.stormSense = .low → s.pins.storm = true) →
      ∃ t, exec (.clearHold source) s = .next t ∧ t.port = ⟨.taken, [0]⟩ ∧
        t.holds.stormLatch = false ∧ t.holds.storm = false ∧
        SourceCleared
          { s.answering [0] with holds := { s.holds with stormLatch := false } } t .storm)

/-- A change of the STORM line: unobserved, or not the one the sense looks for, it changes the level
alone; else it sets the latch and the source, and the engine acts on the held set (R160, R163).
An event with the level already held is none (log entry 3). -/
def Obligations.StormLineSetsLatch : Prop :=
  ∀ (high : Bool) (s : State),
    let s1 := { s with pins := { s.pins with storm := high } }
    let sets : Prop := s.part ≠ .config ∧ s.link.final = .none ∧
      (high = true ↔ (s.cfg.stormSense = .high ∨ s.cfg.stormSense = .rising))
    (s.pins.storm = high → exec (.stormLineEvent high) s = .next s) ∧
    (s.pins.storm ≠ high → ¬sets → exec (.stormLineEvent high) s = .next s1) ∧
    (s.pins.storm ≠ high → sets →
      let latched := { s1 with holds := { s.holds with stormLatch := true } }
      ∃ t, exec (.stormLineEvent high) s = .next t ∧ t.holds.stormLatch = true ∧
        t.holds.storm = true ∧ (s.holds.storm = true → t = latched) ∧
        (s.holds.storm = false → SourceSet latched t .storm))

/-- A falling edge on PARK in RUNNING and STOPPING (R166 to R169, R173): ignored unobserved or with the
latch set; with the target reached PARKED at once, at any log count, so that 15 records set GUARD under
HOLD and a full log drops it with OUTCOME-LOST (R176, R178), in STOPPING with the engine IDLE the final
announcement then requested; in MOVING only latched; else GRANTED for the park, an intent withdrawn
or a normal grant lapsed first, the head back in QUEUED. The head sent back is log entry 11, and how
the final attempt begins is log entry 13. -/
def Obligations.ParkEdgeServesPark : Prop :=
  ∀ s : State,
    ((s.part = .config ∨ s.link.final ≠ .none ∨ s.holds.parkLatch = true) →
      exec .parkFallingEdge s = .next s) ∧
    (s.part ≠ .config → s.link.final = .none → s.holds.parkLatch = false →
      s.holds.park = false →
      let target := max (-(s.cfg.limit : Int)) (min (s.cfg.limit : Int) s.cfg.parkOffset)
      let latched := { s.holds with
        park := true, parkLatch := true, parkLatchedAt := some s.now }
      (target = s.engine.offset → s.engine.state ≠ .moving → LogHasRoom s →
        let parked := { s with
          log := s.logWith ⟨0, .park, .parked, s.engine.offset, 0, 0, 0⟩ }
        ((s.part = .running ∨ s.engine.state ≠ .idle) →
          exec .parkFallingEdge s = .next parked) ∧
        (s.part = .stopping → s.engine.state = .idle →
          ∃ t, exec .parkFallingEdge s = .next t ∧ FinalRequested parked t)) ∧
      (target = s.engine.offset → s.engine.state ≠ .moving →
        let record : OutcomeRecord := ⟨0, .park, .parked, s.engine.offset, 0, 0, 0⟩
        ∃ t u, exec .parkFallingEdge s = .next t ∧ RecordOffered s u record ∧
          ((s.part = .running ∨ s.engine.state ≠ .idle) → t = u) ∧
          (s.part = .stopping → s.engine.state = .idle → FinalRequested u t)) ∧
      (s.engine.state = .moving → exec .parkFallingEdge s = .next { s with
        holds := latched, attention := { s.attention with holdLatched := true } }) ∧
      (target ≠ s.engine.offset → s.engine.state ≠ .moving →
        (s.engine.state = .granted → s.engine.work = .request) →
        ∃ t, exec .parkFallingEdge s = .next t ∧
          (s.engine.state ≠ .intent → s.engine.state ≠ .granted →
            Announced s t .committed .priority 0 s.engine.offset target) ∧
          ((s.engine.state = .intent ∨ s.engine.state = .granted) →
            t.link = s.link.sendsAnew s.pins.laneActive
              (t.edition .committed .priority 0 s.engine.offset target)) ∧
          t = { s with
            holds := { latched with parkGrantedAt := some s.now }
            attention := { s.attention with holdLatched := true }
            builder := { s.builder with
              move := s.builder.move + 1
              refs := { s.builder.refs with startTimeout := none } }
            queue := if s.engine.work = .request then modFront Request.displacedByPark s.queue
              else if s.engine.state = .intent then
                modFront (fun r => { r with position := .waiting }) s.queue
              else s.queue
            link := t.link
            engine := { s.engine with
              state := .granted, work := .park, expired := false, echo := false, settle := none
              holdOff := if s.engine.state = .intent then none else s.engine.holdOff
              startTimeout := if s.engine.state = .granted then none
                else s.engine.startTimeout
              lapsedTag := if s.engine.state = .granted then
                (s.engine.grant.map Grant.tag).or s.engine.lapsedTag else s.engine.lapsedTag
              grant := some ⟨.park, 0, .priority, s.builder.move + 1, s.engine.offset, target,
                moveDuration s.cfg (target - s.engine.offset)⟩ } }))

/-- GUARD_AFTER_START: under the HOLD policy with 15 or more records the GUARD source becomes set;
in every other case nothing changes (R178). -/
def Obligations.GuardAfterStartReports : Prop :=
  ∀ s : State,
    (s.part ≠ .config → s.cfg.fullPolicy = .hold → 15 ≤ s.log.records.length →
      s.holds.guard = false →
      ∃ t, exec .guardAfterStart s = .next t ∧ SourceSet s t .guard) ∧
    ((s.part = .config ∨ s.cfg.fullPolicy = .drop ∨ s.log.records.length < 15 ∨
      s.holds.guard = true) → exec .guardAfterStart s = .next s)

/-! ### Reports: status, outcomes, tables, faults -/

/-- STATUS in every part state: 67 bytes, with these fields at their places, and the latched causes
cleared after the report; nothing else changes (R186, R195). What it reports of the map: first-clear
is the lowest CLEAR bin (R103), run-end the lowest bin that differs from bin 0 (R104), and
next-opportunity of the head's run length the lowest start of a CLEAR run of that length (R105,
R108), each 32 where there is none; and the active count (R66). -/
def Obligations.StatusReportsAndClears : Prop :=
  ∀ s : State, s.port.phase = .noTransaction →
    ∃ b : List Byte, exec .status s = .next { s with
        port := ⟨.taken, 0 :: b⟩, attention := ⟨false, false, false⟩ } ∧
      b.length = 67 ∧
      b[0]? = some (BitVec.ofNat 8 s.part.code) ∧
      b[1]? = some (BitVec.ofNat 8 s.engine.state.code) ∧
      (b.drop 2).take 3 = optTagBytes (s.queue.head?.map Request.tag) ∧
      (b.drop 5).take 12 = optGrantBytes s.engine.grant ∧ b[17]? = some s.builder.move ∧
      (b.drop 18).take 3 = optTagBytes s.engine.lapsedTag ∧
      (b.drop 21).take 2 = signedBytes 2 s.engine.offset ∧
      b[23]? = some (BitVec.ofNat 8 s.holds.bits) ∧
      (b.drop 24).take 4 = [s.link.trail.current, s.link.trail.first, s.link.trail.second,
        s.link.trail.third].map (fun l => BitVec.ofNat 8 l.code) ∧
      (b.drop 28).take 4 = [s.link.collisions, s.neighbours.length, activeCount s.neighbours,
        s.windows.length].map (BitVec.ofNat 8) ∧
      (b.drop 32).take 4 = beBytes 4 (mapBits s.quietMap.bins) ∧
      (b.drop 36).take 6 = [firstClear s.quietMap.bins, runEnd s.quietMap.bins,
        headOpportunity s, s.queue.length, s.log.records.length,
        if s.log.lost then 1 else 0].map (BitVec.ofNat 8) ∧
      (b.drop 42).take 2 = beBytes 2 s.recorder.status.toNat ∧
      (b.drop 44).take 12 = optFirstFaultBytes s.recorder.first ∧
      b[56]? = some (BitVec.ofNat 8
        ((if s.cfg.outcomeThreshold ≤ s.log.records.length then 1 else 0) +
          (if s.cfg.roomThreshold ≤ 8 - s.queue.length then 2 else 0) +
          (if s.engine.state = .granted then 4 else 0) +
          (if s.recorder.status ≠ 0 then 8 else 0) +
          (if s.attention.sweepExtended ∨ s.attention.sweepUnderrun then 16 else 0) +
          (if s.attention.holdLatched then 32 else 0) +
          (if s.attention.sweepExtended then 64 else 0) +
          (if s.attention.sweepUnderrun then 128 else 0))) ∧
      (b.drop 57).take 5 = beBytes 2 s.wind.direction ++ beBytes 2 s.wind.speed ++
        [if s.wind.condition = .fresh then 0 else 1] ∧
      b.drop 62 = beBytes 5 (min s.now (2 ^ 40 - 1)) ∧
      activeCount s.neighbours = (s.neighbours.filter fun n =>
        decide (n.inRadius = true ∧ (n.phase = .committed ∨ n.phase = .moving))).length ∧
      (s.quietMap.bins.length = 32 →
        let bin := fun k : Nat => s.quietMap.bins[k]?
        let first := firstClear s.quietMap.bins
        let last := runEnd s.quietMap.bins
        let fits := fun n i : Nat => i + n ≤ 32 ∧ ∀ k, k < n → bin (i + k) = some .clear
        (first ≤ 32 ∧ (∀ k, k < first → bin k = some .busy) ∧
          (first < 32 → bin first = some .clear)) ∧
        (1 ≤ last ∧ last ≤ 32 ∧ (∀ k, k < last → bin k = bin 0) ∧
          (last < 32 → bin last ≠ bin 0)) ∧
        (s.queue = [] → headOpportunity s = 32) ∧
        ∀ r rest, s.queue = r :: rest →
          let change := (requestTarget s.cfg s.engine.offset r - s.engine.offset).natAbs
          let duration := (100 * change + s.cfg.yawRate - 1) / s.cfg.yawRate
          let period := match s.cfg.periodCode with | 0 => 10 | 1 => 20 | 2 => 50 | _ => 100
          let run := min 32 ((duration + s.cfg.ownSettle + period - 1) / period)
          (∀ i, i < headOpportunity s → ¬fits run i) ∧
            (fits run (headOpportunity s) ∨ headOpportunity s = 32))

/-- TAKE_OUTCOMES: the answer is formed from the log as the take leaves it and the oldest records go
(R177); under HOLD LOST is cleared below 16 and the first deferred completion follows below 14; GUARD
is then reported for the count held, and at 13 or fewer the fall is an evaluation point, as under DROP
(R178, R179, R180). CLEAR_LOST clears LOST alone (R180). -/
def Obligations.TakeOutcomesRemovesOldest : Prop :=
  ∀ (n : Byte) (s : State), s.port.phase = .noTransaction →
    let k := min (min n.toNat 4) s.log.records.length
    let left := s.log.records.drop k
    let lost := s.log.lost && !(decide (s.cfg.fullPolicy = .hold ∧ 0 < k ∧ left.length < 16))
    let answer : List Byte :=
      0 :: BitVec.ofNat 8 k :: BitVec.ofNat 8 left.length :: (if lost then 1 else 0) ::
        (s.log.records.take k).flatMap OutcomeRecord.bytes
    let taken := { s with port := ⟨.taken, answer⟩, log := ⟨left, lost⟩ }
    answer.length = 4 + 11 * k ∧
    exec .clearLost s = .next { s.answering [0] with log := { s.log with lost := false } } ∧
    ∃ t, exec (.takeOutcomes n) s = .next t ∧ t.port = ⟨.taken, answer⟩ ∧
      left <+: t.log.records ∧ (k = 0 → t = taken) ∧
      (s.engine.state ≠ .waiting → s.engine.state ≠ .intent → s.cfg.fullPolicy = .drop →
        t = taken) ∧
      (s.engine.state ≠ .waiting → s.engine.state ≠ .intent → s.holds.guard = false →
        left.length < 15 → (∀ r ∈ s.queue, r.deferred = false) → t = taken) ∧
      (∀ r, 0 < k → s.cfg.fullPolicy = .hold → left.length ≤ 13 →
        s.queue.find? Request.deferred = some r →
        left ++ [completionRecord s r (if r.isSweep then .unconfirmed else .expired)] <+:
          t.log.records ∧ ∀ x ∈ t.queue, x.tag ≠ r.tag) ∧
      (0 < k → s.cfg.fullPolicy = .drop →
        (left.length ≤ 13 → EvaluationPoint false taken t) ∧ (13 < left.length → t = taken)) ∧
      (0 < k → s.cfg.fullPolicy = .hold → s.part ≠ .config →
        ((13 < left.length ∨ ∀ r ∈ s.queue, r.deferred = false) → FallServed taken t) ∧
        ∀ r, left.length ≤ 13 → r ∈ s.queue → r.deferred = true → r.position = .queued →
          (∀ x ∈ s.queue, x.tag ≠ r.tag → x.deferred = false) →
          (∀ x ∈ s.queue, x.tag = r.tag → x = r) →
          FallServed { taken with
            queue := withoutTag r.tag s.queue
            log := ⟨left ++
              [completionRecord s r (if r.isSweep then .unconfirmed else .expired)], lost⟩ } t)

/-- READ_NEIGHBOURS and READ_WINDOWS in every part state: the count, and up to four entries from the
start index, 32 and 22 bytes each; nothing changes (R70, R109). That a window whose close time is
reached, its close not yet taken, is reported OPEN is the model's choice, log entry 31. -/
def Obligations.ReadsReturnTables : Prop :=
  ∀ (first : Byte) (s : State), s.port.phase = .noTransaction →
    exec (.readNeighbours first) s = .next (s.answering
      (0 :: BitVec.ofNat 8 s.neighbours.length ::
        ((s.neighbours.drop first.toNat).take 4).flatMap Neighbour.bytes)) ∧
    (∀ e ∈ s.neighbours, e.bytes.length = 32) ∧
    exec (.readWindows first) s = .next (s.answering
      (0 :: BitVec.ofNat 8 s.windows.length ::
        ((s.windows.drop first.toNat).take 4).flatMap (Window.bytes s.now))) ∧
    ∀ w ∈ s.windows, (w.bytes s.now).length = 22 ∧
      (w.bytes s.now).getLast? = some (if min w.openTime (2 ^ 40 - 1) ≤ s.now then 0 else 1)

/-- CLEAR_FAULTS in every part state: the named kinds leave the status; if that empties it the
first-fault record is absent; HALT and all else is kept (R183). -/
def Obligations.ClearFaultsRemovesKinds : Prop :=
  ∀ (kinds : W16) (s : State), s.port.phase = .noTransaction →
    ∃ t, exec (.clearFaults kinds) s = .next t ∧
      t = { s.answering [0] with recorder := t.recorder } ∧
      (∀ k : FaultKind, hasKind t.recorder.status k =
        (hasKind s.recorder.status k && !kinds.getLsbD k.index)) ∧
      t.recorder.first =
        (if t.recorder.status = 0 ∧ s.recorder.status ≠ 0 then none else s.recorder.first)

/-! ### The array link -/

/-- LSD and the signal-loss timer: started and stopped with the light in LISTEN, READY and CHECK;
its expiry enters DOWN with the LINK source set (R18, R21, R22), and OFF and CONFIG at once
after the request for the final announcement (R37); light in DOWN begins a full listen period. A
repeated level, a timer not due and the trail through DOWN are log entries 3, 2 and 21. -/
def Obligations.LightAndSignalLoss : Prop :=
  ∀ s : State,
    let receiving := s.link.trail.current = .listen ∨ s.link.trail.current = .ready ∨
      s.link.trail.current = .check
    let lit := fun b => { s with pins := { s.pins with light := b } }
    (s.pins.light = false → exec .lsdDeasserted s = .next s) ∧
    (s.pins.light = true → ¬receiving → exec .lsdDeasserted s = .next (lit false)) ∧
    (s.pins.light = true → receiving → exec .lsdDeasserted s = .next { lit false with
      link := { s.link with signalLoss := some (later s.now 10) } }) ∧
    (s.pins.light = true → exec .lsdAsserted s = .next s) ∧
    (s.pins.light = false → s.link.trail.current = .off →
      exec .lsdAsserted s = .next (lit true)) ∧
    (s.pins.light = false → receiving → exec .lsdAsserted s = .next { lit true with
      link := { s.link with signalLoss := none } }) ∧
    (s.pins.light = false → s.link.trail.current = .down →
      exec .lsdAsserted s = .next { lit true with
        link := { s.link with
          trail := ⟨.listen, .down, s.link.trail.first, s.link.trail.second⟩
          listenTimer := some (later s.now (s.cfg.listenMultiple * s.cfg.refreshPeriod))
          signalLoss := none } }) ∧
    (¬Reached s.link.signalLoss s.now → exec .signalLossTimerExpiry s = .next s) ∧
    (Reached s.link.signalLoss s.now → receiving → s.part ≠ .config →
      let down := { s with link := { s.link with
        trail := ⟨.down, s.link.trail.current, s.link.trail.first, s.link.trail.second⟩
        listenTimer := none, checkTimer := none, refresh := none, signalLoss := none
        stage := .idle, sent := [], sentCurrent := false } }
      ∃ t, exec .signalLossTimerExpiry s = .next t ∧
        (s.link.final = .none → t.holds.link = true ∧ (s.holds.link = true → t = down) ∧
          (s.holds.link = false → SourceSet down t .link)) ∧
        (s.link.final ≠ .none → t.part = .config ∧
          t.link.trail = ⟨.off, .down, s.link.trail.current, s.link.trail.first⟩ ∧
          t.log = s.log ∧ t.engine.offset = s.engine.offset))

/-- FRAME_RECEIVED outside an echo check: malformed, dark, OFF and DOWN change nothing (R17, R18); a
frame of another station goes to the idle intake, the buffer, or RECEIVE-OVERRUN, and is noted
in CHECK (R34, R36); an own-number frame raises DUPLICATE-STATION (R35). Frames in the dark are
log entry 9. -/
def Obligations.FramesSorted : Prop :=
  ∀ (rx : Received) (s : State),
    ((s.link.trail.current = .off ∨ s.link.trail.current = .down ∨ s.pins.light = false ∨
      wellFormedFrame rx = none) → exec (.frameReceived rx) s = .next s) ∧
    ∀ f, wellFormedFrame rx = some f → s.pins.light = true → s.link.trail.current ≠ .off →
      s.link.trail.current ≠ .down →
      let noted := { s.link with
        heardOther := s.link.heardOther || decide (s.link.trail.current = .check) }
      (f.station ≠ s.cfg.station →
        (s.intake = none → s.link.buffer = [] → exec (.frameReceived rx) s = .next { s with
          link := noted, intake := some ⟨f, s.now, none, false⟩ }) ∧
        (s.intake ≠ none → s.link.buffer.length < 4 → exec (.frameReceived rx) s =
          .next { s with link := { noted with buffer := s.link.buffer ++ [⟨f, s.now⟩] } }) ∧
        (4 ≤ s.link.buffer.length → ∃ t, exec (.frameReceived rx) s = .next t ∧
          t.link.buffer = s.link.buffer ∧ t.intake = s.intake ∧
          t.link.heardOther = noted.heardOther ∧
          t.recorder =
            s.recorder.raised s.cfg s.now .receiveOverrun ⟨none, none, none⟩)) ∧
      (f.station = s.cfg.station → s.link.stage ≠ .echoWait →
        ∃ t, exec (.frameReceived rx) s = .next t ∧
          t.recorder =
            s.recorder.raised s.cfg s.now .duplicateStation ⟨some s.cfg.station, none, none⟩ ∧
          ((setsHalt s.cfg .duplicateStation = false ∨ s.part = .config ∨
            s.holds.halt = true) → t = { s with recorder := t.recorder }) ∧
          (setsHalt s.cfg .duplicateStation = true → s.part ≠ .config → s.holds.halt = false →
            SourceSet { s with recorder := t.recorder } t .halt))

/-- The echo check: a good echo of the current edition confirms it and ends the attempt, of a
replaced one begins the next attempt (R30), and in INTENT sets the echo flag and is an evaluation
point, with the hold-off run out the commit test (R140, R145); a differing frame, or the deadline, is
a collision with its back-off draw (R27, R31). After the request for the final announcement the frame
in progress is followed by the final attempt, and the end of that attempt enters OFF and CONFIG
(R37). A confirmation outside INTENT leaves the engine alone (log entry 17); the count at 8 is log
entry 13, and that no ECHO-LOSS is raised for the frame in progress is log entry 29. -/
def Obligations.EchoCheckEndsAttempt : Prop :=
  ∀ s : State, s.link.stage = .echoWait →
    let x := s.link.jitter * 25173 + 13849
    let k := s.link.collisions + 1
    let idle := { s.link with stage := .idle, sent := [], sentCurrent := false }
    let backedOff := { s with link := { idle with
      collisions := k, jitter := x
      stage := .backoff (250 * (x.toNat * 2 ^ min k 5 / 65536)) } }
    let lastAttempt := fun l : Link =>
      { s with link := { l with final := .running }.attempting s.pins.laneActive }
    (s.link.final = .none → k < 8 → exec .echoDeadline s = .next backedOff) ∧
    (s.link.final = .awaited →
      exec .echoDeadline s = .next (lastAttempt { idle with collisions := min 8 k })) ∧
    (s.link.final = .running → ∃ t, exec .echoDeadline s = .next t ∧
      ConfigEntered { s with link := { s.link with collisions := min 8 k } } t) ∧
    ∀ f bytes, wellFormedFrame (.delimited bytes) = some f → f.station = s.cfg.station →
      s.pins.light = true → s.link.trail.current ≠ .off → s.link.trail.current ≠ .down →
      let received := Instr.frameReceived (.delimited bytes)
      let confirmed := { idle with
        collisions := 0, slot := { s.link.slot with confirmed := true } }
      let replaced := { idle with
        collisions := 0, slot := { s.link.slot with pending := true } }
      (s.link.final = .none →
        (bytes ≠ s.link.sent → k < 8 → exec received s = .next backedOff) ∧
        (bytes = s.link.sent → s.link.sentCurrent = true →
          let heard := s.engine.state = .intent ∧
            s.link.slot.edition.map Edition.phase = some .intent ∧
            s.link.slot.confirmed = false
          (¬heard → exec received s = .next { s with link := confirmed }) ∧
          (heard →
            let echoed := { s with
              link := confirmed, engine := { s.engine with echo := true } }
            (s.engine.expired = false → s.holds.held = false → headQuiet s = true →
              exec received s = .next echoed) ∧
            ∀ r rest, s.queue = r :: rest →
              ∃ t, exec received s = .next t ∧ IntentTested false echoed t r rest)) ∧
        (bytes = s.link.sent → s.link.sentCurrent = false →
          exec received s =
            .next { s with link := replaced.attempting s.pins.laneActive })) ∧
      (s.link.final = .awaited →
        (bytes ≠ s.link.sent →
          exec received s = .next (lastAttempt { idle with collisions := min 8 k })) ∧
        (bytes = s.link.sent → s.link.sentCurrent = false →
          exec received s = .next (lastAttempt replaced))) ∧
      (s.link.final = .running →
        ∃ t, exec received s = .next t ∧
          (bytes ≠ s.link.sent →
            ConfigEntered { s with link := { s.link with collisions := min 8 k } } t) ∧
          (bytes = s.link.sent → s.engine.state ≠ .intent →
            ConfigEntered { s with link := { s.link with collisions := 0 } } t))

/-- The eighth collision, made by the echo deadline or by an own-number frame that differs from the
bytes sent (R31): CHECK with a full period, the transmitter idle, the count at 8, the LINK
source set and ECHO-LOSS raised with the move number (R23, R32). The order of the two is log
entry 25. -/
def Obligations.EighthCollisionEntersCheck : Prop :=
  ∀ (c : Instr) (s : State), s.link.stage = .echoWait → s.link.final = .none →
    s.link.collisions = 7 →
    s.link.trail.current = .ready → s.part ≠ .config → s.holds.link = false →
    (c = .echoDeadline ∨
      ∃ f bytes, c = .frameReceived (.delimited bytes) ∧ s.pins.light = true ∧
        wellFormedFrame (.delimited bytes) = some f ∧ f.station = s.cfg.station ∧
        bytes ≠ s.link.sent) →
    let s1 := { s with link := { s.link with
      collisions := 8, stage := .idle, sent := [], sentCurrent := false, refresh := none
      heardOther := false
      trail := ⟨.check, .ready, s.link.trail.first, s.link.trail.second⟩
      checkTimer := some (later s.now (s.cfg.listenMultiple * s.cfg.refreshPeriod)) } }
    ∃ t, exec c s = .next t ∧
      t = { s1 with link := t.link, holds := t.holds, attention := t.attention
                    recorder := t.recorder, engine := t.engine, queue := t.queue } ∧
      t.recorder = s.recorder.raised s.cfg s.now .echoLoss ⟨none, some s.builder.move, none⟩ ∧
      t.holds = (if setsHalt s.cfg .echoLoss then { s.holds with link := true, halt := true }
        else { s.holds with link := true }) ∧
      t.attention.holdLatched = true ∧ HoldTakesEffect s1 t ∧
      t.link.trail = s1.link.trail ∧ t.link.checkTimer = s1.link.checkTimer ∧
      t.link.collisions = 8 ∧ t.link.stage = .idle

/-- The transmit stages: activity abandons a gap, quiet draws one, the end of a gap forms the frame,
its times A and B computed then by the phase (R46), clears the pending mark and restarts the refresh
timer with a jitter draw, and so on (R25 to R29, R31, R33). An event outside its stage, or not due,
changes nothing (log entry 2). -/
def Obligations.TransmitStages : Prop :=
  ∀ s : State,
    let x := s.link.jitter * 25173 + 13849
    let lane := fun b => { s with pins := { s.pins with laneActive := b } }
    let gap : Stage := .defer (some (30 + 10 * (x.toNat * 16 / 65536)))
    let attempt := if s.pins.laneActive then { s.link with stage := .defer none }
      else { s.link with jitter := x, stage := gap }
    let upTo := fun t : Option Nat => match t with
      | none => 0
      | some d => min 65535 (min d (2 ^ 40 - 1) - s.now)
    let since := fun t : Option Nat => match t with
      | none => 0
      | some d => min 65535 (s.now - min d (2 ^ 40 - 1))
    (∀ e : Edition, e.frame s.now =
      { station := e.station, phase := e.phase, cls := e.cls, move := e.move
        claimAge := e.claimAge, east := e.east, north := e.north
        fromOffset := e.fromOffset, toOffset := e.toOffset
        timeA := match e.phase with
          | .idle => 0
          | .intent => upTo e.refs.holdOff
          | .committed => if e.refs.startTimeout = none then 65535 else upTo e.refs.startTimeout
          | .moving => since e.refs.begun
          | .settling => since e.refs.ended
        timeB := match e.phase with
          | .idle | .intent | .committed => 0
          | .moving => upTo e.refs.expectedEnd
          | .settling => upTo e.refs.settle }) ∧
    ((∃ g, s.link.stage = .defer g) → exec .laneActivity s =
      .next { lane true with link := { s.link with stage := .defer none } }) ∧
    ((∀ g, s.link.stage ≠ .defer g) → exec .laneActivity s = .next (lane true)) ∧
    (s.link.stage = .defer none → exec .laneQuiet s =
      .next { lane false with link := { s.link with jitter := x, stage := gap } }) ∧
    (s.link.stage ≠ .defer none → exec .laneQuiet s = .next (lane false)) ∧
    (∀ g e, s.link.stage = .defer (some g) → s.link.slot.edition = some e →
      exec .gapEnd s = .next { s with link := { s.link with
        stage := .send, sent := (e.frame s.now).bytes, sentCurrent := true, jitter := x
        slot := { s.link.slot with pending := false }
        refresh := some (later s.now
          (s.cfg.refreshPeriod + x.toNat * (s.cfg.jitter + 1) / 65536)) } }) ∧
    (∀ g, s.link.stage = .defer (some g) → s.link.slot.edition = none →
      exec .gapEnd s = .next { s with link := { s.link with stage := .idle } }) ∧
    ((∀ g, s.link.stage ≠ .defer (some g)) → exec .gapEnd s = .next s) ∧
    (s.link.stage = .send → exec .endOfTransmission s =
      .next { s with link := { s.link with stage := .echoWait } }) ∧
    (s.link.stage ≠ .send → exec .endOfTransmission s = .next s) ∧
    (s.link.stage ≠ .echoWait → exec .echoDeadline s = .next s) ∧
    (∀ d, s.link.stage = .backoff d → exec .backoffEnd s = .next { s with link := attempt }) ∧
    ((∀ d, s.link.stage ≠ .backoff d) → exec .backoffEnd s = .next s) ∧
    (¬Reached s.link.refresh s.now → exec .refreshTimerExpiry s = .next s) ∧
    (Reached s.link.refresh s.now → s.link.trail.current = .ready → s.link.stage = .idle →
      exec .refreshTimerExpiry s = .next { s with link := { attempt with refresh := none } }) ∧
    (Reached s.link.refresh s.now → (s.link.trail.current ≠ .ready ∨ s.link.stage ≠ .idle) →
      exec .refreshTimerExpiry s =
        .next { s with link := { s.link with refresh := none } })

/-- The ends of the listen and CHECK periods: READY with the count 0, an attempt begun at once and
the LINK source clear, or a further CHECK period when no other station was heard (R20, R22,
R23). -/
def Obligations.ListenAndCheckPeriodsEnd : Prop :=
  ∀ s : State,
    let x := s.link.jitter * 25173 + 13849
    let ready := { s with link := { s.link with
      trail := ⟨.ready, s.link.trail.current, s.link.trail.first, s.link.trail.second⟩
      listenTimer := none, checkTimer := none, heardOther := false, collisions := 0
      jitter := if s.pins.laneActive then s.link.jitter else x
      stage := .defer (if s.pins.laneActive then none
        else some (30 + 10 * (x.toNat * 16 / 65536))) } }
    let entersReady := fun c => ∃ t, exec c s = .next t ∧
      t.link.trail = ready.link.trail ∧ t.link.collisions = 0 ∧ t.link.listenTimer = none ∧
      t.link.checkTimer = none ∧ t.link.stage = ready.link.stage ∧
      t.link.jitter = ready.link.jitter ∧
      ((s.part = .config ∨ s.holds.link = false) → t = ready) ∧
      (s.part ≠ .config → s.holds.link = true →
        t.holds.link = false ∧ SourceCleared ready t .link)
    (¬Reached s.link.listenTimer s.now → exec .listenTimerExpiry s = .next s) ∧
    (Reached s.link.listenTimer s.now → s.link.trail.current ≠ .listen →
      exec .listenTimerExpiry s = .next s) ∧
    (Reached s.link.listenTimer s.now → s.link.trail.current = .listen →
      entersReady .listenTimerExpiry) ∧
    (¬Reached s.link.checkTimer s.now → exec .checkPeriodExpiry s = .next s) ∧
    (Reached s.link.checkTimer s.now → s.link.trail.current ≠ .check →
      exec .checkPeriodExpiry s = .next s) ∧
    (Reached s.link.checkTimer s.now → s.link.trail.current = .check →
      (s.link.heardOther = true → entersReady .checkPeriodExpiry) ∧
      (s.link.heardOther = false → exec .checkPeriodExpiry s = .next { s with
        link := { s.link with
          checkTimer := some
            (later s.now (s.cfg.listenMultiple * s.cfg.refreshPeriod)) } }))

/-! ### Wake geometry, the intake, the table and the window list -/

/-- GEOMETRY_POINT: the displacement, the two rotated distances with the sine and cosine of the table
folded into the first quadrant (R75, R76), the upstream test, the wake speed and the delay against
the horizon, the half-width, the deflections and the closed band, with the wind held at the point
(R72, R77 to R85); in IDLE and INTENT there is no computation (R52). A void frame, a second geometry
point and an idle intake change nothing: DEDUCED, log entries 14, 23 and 2. -/
def Obligations.GeometryPointComputes : Prop :=
  (sineTable.length = 257 ∧ sineTable[0]? = some 0 ∧ sineTable[1]? = some 101 ∧
    sineTable[128]? = some 11585 ∧ sineTable[255]? = some 16384 ∧ sineTable[256]? = some 16384 ∧
    sineTable.Pairwise (· ≤ ·) ∧
    ∀ j q : Nat, sineTable[j]? = some q →
      (j < 256 → sine j = q ∧ sine (512 + j) = -(q : Int)) ∧
      (0 < j → sine (512 - j) = q ∧ sine (1024 - j) = -(q : Int)) ∧
      ∀ d, d < 1024 → cosine d = if d < 768 then sine (d + 256) else sine (d - 768)) ∧
  ∀ s : State,
    (s.intake = none → exec .geometryPoint s = .next s) ∧
    ∀ w, s.intake = some w →
      ((w.void = true ∨ w.geometry ≠ none ∨ w.frame.phase = .idle ∨ w.frame.phase = .intent) →
        exec .geometryPoint s = .next s) ∧
      (w.void = false → w.geometry = none → w.frame.phase ≠ .idle → w.frame.phase ≠ .intent →
        let dx : Int := (s.cfg.east : Int) - w.frame.east
        let dy : Int := (s.cfg.north : Int) - w.frame.north
        let sinD := sine s.wind.direction
        let cosD := cosine s.wind.direction
        let along : Int := (dx * -sinD + dy * -cosD + 8192) / 16384
        let across : Int := (dx * -cosD + dy * sinD + 8192) / 16384
        let wakeSpeed := max 5 ((s.wind.speed * s.cfg.advection + 128) / 256)
        let delay := 100 * along.toNat / wakeSpeed
        let half : Int := s.cfg.halfWidth + (s.cfg.expansion : Int) * along / 256
        let shift := fun γ : Int => ((s.cfg.gain : Int) * γ * along).tdiv 65536
        let inBand :=
          min (shift w.frame.fromOffset) (shift w.frame.toOffset) - half ≤ across ∧
            across ≤ max (shift w.frame.fromOffset) (shift w.frame.toOffset) + half
        ∃ result, exec .geometryPoint s =
            .next { s with intake := some { w with geometry := some result } } ∧
          (along ≤ 0 → result = .notAffecting) ∧
          (0 < along → s.cfg.horizon < delay → result = .notAffecting) ∧
          (0 < along → delay ≤ s.cfg.horizon → inBand →
            result = .affecting along.toNat across delay) ∧
          (0 < along → delay ≤ s.cfg.horizon → ¬inBand → result = .notAffecting))

/-- The table step of an intake completion: a new entry in its place, a newcomer filtered out, an
entry updated or removed, the victim of a full table, TABLE-FULL (R53, R55, R57 to R61, R64,
R65). The intake is then IDLE, or in work on the next waiting frame (R51). -/
def Obligations.IntakeUpdatesTable : Prop :=
  ∀ (w : InWork) (s : State), s.intake = some w → w.void = false →
    (w.frame.phase = .idle ∨ w.frame.phase = .intent ∨ w.geometry ≠ none) →
    let f := w.frame
    let near : Prop := ((s.cfg.east : Int) - f.east) ^ 2 + ((s.cfg.north : Int) - f.north) ^ 2 ≤
      (s.cfg.radius : Int) ^ 2
    let atRest := f.phase = .idle ∨ f.phase = .intent
    let qualifying := near ∨ (¬atRest ∧ ∃ a c d, w.geometry = some (.affecting a c d))
    let entry : Neighbour :=
      { station := f.station, east := f.east, north := f.north
        inRadius := inRadius s.cfg f.east f.north
        phase := f.phase, move := f.move, cls := f.cls, claimAge := f.claimAge
        fromOffset := f.fromOffset, toOffset := f.toOffset
        beginEstimate := if f.phase = .moving then some (w.arrival - f.timeA) else none
        endEstimate := if f.phase = .moving then some (later w.arrival f.timeB)
          else if f.phase = .settling then some (w.arrival - f.timeA) else none
        lastHeard := w.arrival
        expiry := later w.arrival (s.cfg.expiryMultiple * s.cfg.refreshPeriod) }
    let placedIn := fun ns t : List Neighbour => ∃ before after, ns = before ++ after ∧
      t = before ++ entry :: after ∧ (∀ n ∈ before, n.station ≤ f.station) ∧
      ∀ n, after.head? = some n → f.station < n.station
    let isVictim := fun n : Neighbour =>
      (n.inRadius = false ∧ n.phase = .settling) ∨
        ((∀ m ∈ s.neighbours, ¬(m.inRadius = false ∧ m.phase = .settling)) ∧
          n.inRadius = true ∧ n.phase = .idle)
    ∃ t, exec .intakeCompletion s = .next t ∧
      (inRadius s.cfg f.east f.north = true ↔ near) ∧
      (s.link.buffer = [] → t.intake = none) ∧
      (∀ a rest, s.link.buffer = a :: rest →
        t.intake = some ⟨a.frame, a.arrival, none, false⟩ ∧ t.link.buffer = rest) ∧
      ((∀ n ∈ s.neighbours, n.station ≠ f.station) →
        (¬qualifying → t.neighbours = s.neighbours) ∧
        (qualifying → s.neighbours.length < 48 → placedIn s.neighbours t.neighbours) ∧
        (qualifying → 48 ≤ s.neighbours.length →
          (∀ v ∈ s.neighbours, isVictim v →
            (∀ m ∈ s.neighbours, isVictim m → v.lastHeard < m.lastHeard ∨
              (v.lastHeard = m.lastHeard ∧ v.station ≤ m.station)) →
            placedIn (s.neighbours.filter fun n => decide (n.station ≠ v.station))
              t.neighbours) ∧
          ((∀ v ∈ s.neighbours, ¬isVictim v) → t.neighbours = s.neighbours ∧
            (hasKind s.cfg.faultMasks .tableFull = false →
              hasKind t.recorder.status .tableFull = true)))) ∧
      ∀ n, s.neighbours.find? (fun n => decide (n.station = f.station)) = some n →
        (atRest → ¬near →
          t.neighbours = s.neighbours.filter fun n => decide (n.station ≠ f.station)) ∧
        ((¬atRest ∨ near) →
          t.neighbours = s.neighbours.map fun m =>
            if m.station = f.station then { entry with
              inRadius := if n.east = f.east ∧ n.north = f.north then n.inRadius
                else entry.inRadius
              beginEstimate := if f.phase = .settling ∧ n.move = f.move then n.beginEstimate
                else entry.beginEstimate }
            else m)

/-- The window step of an intake completion (R92 to R97): what the frame's phase and the window of
its key give, the station's windows of other moves settled, and WINDOW-FULL with the
latest-opening window of a full list (R91); then the map and the counts are offered to the engine,
whose intent is withdrawn when it is lost and yields when the contenders use up the budget (R135,
R141). A begin = end − D_move that would fall below 0 is 0: the model's choice, log entry 30. -/
def Obligations.IntakeUpdatesWindows : Prop :=
  ∀ (w : InWork) (s : State), s.intake = some w → w.void = false →
    (w.frame.phase = .idle ∨ w.frame.phase = .intent ∨ w.geometry ≠ none) →
    let f := w.frame
    let atRest := f.phase = .idle ∨ f.phase = .intent
    let closing := fun openTime closeTime : Nat =>
      if min closeTime (2 ^ 40 - 1) < min openTime (2 ^ 40 - 1) then openTime else closeTime
    let frozen := fun v : Window => { v with
      state := WindowState.frozen
      closeTime := closing v.openTime (later w.arrival (v.delay + s.cfg.wakeSettle)) }
    let runs := fun v : Window => decide (s.now < min v.closeTime (2 ^ 40 - 1))
    let settled := fun v : Window =>
      match v.state with
      | .provisional => none
      | .live => if runs (frozen v) then some (frozen v) else none
      | .frozen => some v
    let others := s.windows.filterMap fun v =>
      if v.station = f.station ∧ v.move ≠ f.move then settled v else some v
    let key := others.find? fun v => v.hasKey f.station f.move
    let made := fun a c d =>
      let start := match f.phase, key with
        | .committed, _ => w.arrival
        | .settling, some v => min v.openTime (2 ^ 40 - 1) - v.delay
        | .settling, none => w.arrival - f.timeA - moveDuration s.cfg (f.toOffset - f.fromOffset)
        | _, _ => w.arrival - f.timeA
      let closeTime := match f.phase with
        | .committed => later w.arrival
            (f.timeA + moveDuration s.cfg (f.toOffset - f.fromOffset) + d + s.cfg.wakeSettle)
        | .settling => later (w.arrival - f.timeA) (d + s.cfg.wakeSettle)
        | _ => later (later w.arrival f.timeB) (d + s.cfg.wakeSettle)
      ({ station := f.station, move := f.move
         state := match f.phase with
           | .committed => .provisional | .settling => .frozen | _ => .live
         openTime := later start d, closeTime := closing (later start d) closeTime
         along := a, across := c, delay := d } : Window)
    ∃ t, exec .intakeCompletion s = .next t ∧
      t.quietMap = { s.quietMap with
        bins := deriveBins s.quietMap.base (binPeriod s.cfg) t.windows } ∧
      ((setsHalt s.cfg .tableFull = false ∨ s.neighbours.length < 48) →
        (setsHalt s.cfg .windowFull = false ∨ s.windows.length < 32) →
        EvaluationPoint true
          { s with
            intake := t.intake, neighbours := t.neighbours, windows := t.windows
            quietMap := t.quietMap, recorder := t.recorder
            link := { s.link with buffer := t.link.buffer } } t) ∧
      (atRest → t.windows = s.windows.filterMap fun v =>
        if v.station = f.station then settled v else some v) ∧
      (¬atRest → w.geometry = some .notAffecting →
        t.windows = others.filter fun v => !v.hasKey f.station f.move) ∧
      ∀ a c d, ¬atRest → w.geometry = some (.affecting a c d) →
        let new := made a c d
        let rest := others.filter fun v => !v.hasKey f.station f.move
        (runs new = false → t.windows = rest) ∧
        (runs new = true → (key ≠ none ∨ others.length < 32) →
          t.windows = insertWindow new rest ∧ t.windows.Perm (new :: rest)) ∧
        (runs new = true → key = none → 32 ≤ others.length → ∀ last, others.getLast? = some last →
          (hasKind s.cfg.faultMasks .windowFull = false →
            hasKind t.recorder.status .windowFull = true) ∧
          (min new.openTime (2 ^ 40 - 1) < min last.openTime (2 ^ 40 - 1) →
            t.windows = insertWindow new others.dropLast) ∧
          (min last.openTime (2 ^ 40 - 1) ≤ min new.openTime (2 ^ 40 - 1) →
            t.windows = others))

/-- The deadlines of the table, the list and the map: the entry leaves, the window leaves, bin 0
advances by one period, the map is formed afresh (R62, R98, R100, R102); each is an evaluation
point, at which a head in WAITING may enter INTENT and an intent that has lost the quiet condition is
withdrawn (R135, R141). Before its deadline nothing happens (log entry 2). -/
def Obligations.TableListAndMapDeadlines : Prop :=
  ∀ s : State,
    (∀ station, (∀ n ∈ s.neighbours, n.station = station → s.now < n.expiry) →
      exec (.entryExpiry station) s = .next s) ∧
    (∀ station n, s.neighbours.find? (fun n => decide (n.station = station)) = some n →
      n.expiry ≤ s.now →
      ∃ t, exec (.entryExpiry station) s = .next t ∧
        t.neighbours = s.neighbours.filter (fun n => decide (n.station ≠ station)) ∧
        t.windows = s.windows ∧ EvaluationPoint false { s with neighbours := t.neighbours } t) ∧
    (∀ station move, (∀ w ∈ s.windows, w.hasKey station move = true → s.now < w.closeTime) →
      exec (.windowClose station move) s = .next s) ∧
    (∀ station move w, s.windows.find? (fun w => w.hasKey station move) = some w →
      w.closeTime ≤ s.now →
      ∃ t, exec (.windowClose station move) s = .next t ∧
        t.windows = s.windows.filter (fun w => !w.hasKey station move) ∧
        t.quietMap = { s.quietMap with
          bins := deriveBins s.quietMap.base (binPeriod s.cfg) t.windows } ∧
        EvaluationPoint false { s with windows := t.windows, quietMap := t.quietMap } t) ∧
    (s.now < s.quietMap.boundary → exec .binBoundary s = .next s) ∧
    (s.quietMap.boundary ≤ s.now →
      let base := s.quietMap.base + binPeriod s.cfg
      ∃ t, exec .binBoundary s = .next t ∧
        t.quietMap = ⟨base, later base (binPeriod s.cfg),
          deriveBins base (binPeriod s.cfg) s.windows⟩ ∧
        (s.part = .config → t = { s with quietMap := t.quietMap }) ∧
        (s.part ≠ .config → EvaluationPoint false { s with quietMap := t.quietMap } t))

/-! ### Encodings -/

/-- Every port command's record reads back as the command, whatever bytes follow it, and a record
cut short is no command (R188, R189). -/
def Obligations.CommandRecordsReadBack : Prop :=
  ∀ (i : Instr) (bs : List Byte), i.wellFormed = true → encodeRecord i = some bs →
    (∀ more, decodeRecord (bs ++ more) = some (i, more)) ∧
    ∀ cut, cut < bs.length → decodeRecord (bs.take cut) = none

/-- Every announcement with its fields in their ranges is formed as 19 bytes that read back as a
well-formed frame with the same fields (R15 to R17, R39). -/
def Obligations.FramesReadBack : Prop :=
  ∀ f : Frame, 1 ≤ f.station → f.station ≤ 4095 → f.claimAge ≤ 255 → f.east ≤ 32767 →
    f.north ≤ 32767 → -300 ≤ f.fromOffset → f.fromOffset ≤ 300 → -300 ≤ f.toOffset →
    f.toOffset ≤ 300 → f.timeA ≤ 65535 → f.timeB ≤ 65535 →
    f.bytes.length = 19 ∧ wellFormedFrame (.delimited f.bytes) = some f

/-! ### Invariants of every step -/

/-- Every step keeps the capacities of the lists, the ranges of the configuration record, of the
current offset, of the local time and of the wind record, and LOST under HOLD with a full log
only (R1, R7, R9, R31, R36, R55, R89, R111, R175, R180, R190). -/
def Obligations.CapacitiesAndRangesKept : Prop :=
  ∀ s t : State, step s = .next t →
    WithinCapacity s → ConfigInRange s → OffsetAndTimeInRange s → WindRecordLawful s →
    LostMeansFull s →
    WithinCapacity t ∧ ConfigInRange t ∧ OffsetAndTimeInRange t ∧ WindRecordLawful t ∧
      LostMeansFull t

/-- Every step keeps the table and the window list in their orders with one entry a key, and the map
as the present list and base make it (R55, R89, R101). -/
def Obligations.TablesAndMapKept : Prop :=
  ∀ s t : State, step s = .next t → TableOrdered s → WindowsOrdered s → MapCurrent s →
    TableOrdered t ∧ WindowsOrdered t ∧ MapCurrent t

/-- Every step keeps the engine, its head, its grant, its timers and the hold set in agreement
(R112, R134, R148, R159, R160, R193). -/
def Obligations.EngineLawfulKept : Prop :=
  ∀ s t : State, step s = .next t → EngineLawful s → EngineLawful t

/-- All these conditions hold right after hardware reset. -/
def Obligations.InvariantsHoldAtReset : Prop :=
  WithinCapacity State.reset ∧ ConfigInRange State.reset ∧ OffsetAndTimeInRange State.reset ∧
    WindRecordLawful State.reset ∧ LostMeansFull State.reset ∧ TableOrdered State.reset ∧
    WindowsOrdered State.reset ∧ MapCurrent State.reset ∧ EngineLawful State.reset
end

