-- ==== Sys2Proof/Laws/Dispatch.lean ====
section
/-! SUPPORT. What `exec` answers, one lemma a command: its meaning. Cite these in place of unfolding
`exec`, whose match is long. -/

namespace Sys2Proof.Machine

@[simp] theorem exec_hardwareReset (selLow) (s : State) :
    exec (.hardwareReset selLow) s = execHardwareReset selLow s := rfl
@[simp] theorem exec_localTimeTick (s : State) : exec .localTimeTick s = execLocalTimeTick s := rfl
@[simp] theorem exec_configure (r) (s : State) : exec (.configure r) s = execConfigure r s := rfl
@[simp] theorem exec_start (offset) (s : State) : exec (.start offset) s = execStart offset s := rfl
@[simp] theorem exec_stop (s : State) : exec .stop s = execStop s := rfl
@[simp] theorem exec_wind (direction speed) (s : State) :
    exec (.wind direction speed) s = execWind direction speed s := rfl
@[simp] theorem exec_submit (tag c target wf wd ef ed) (s : State) :
    exec (.submit tag c target wf wd ef ed) s = execSubmit tag c target wf wd ef ed s := rfl
@[simp] theorem exec_submitSweep (tag c step n p q u) (s : State) :
    exec (.submitSweep tag c step n p q u) s = execSubmitSweep tag c step n p q u s := rfl
@[simp] theorem exec_extend (tag extension) (s : State) :
    exec (.extend tag extension) s = execExtend tag extension s := rfl
@[simp] theorem exec_confirm (s : State) : exec .confirm s = execConfirm s := rfl
@[simp] theorem exec_cancel (tag) (s : State) : exec (.cancel tag) s = execCancel tag s := rfl
@[simp] theorem exec_begun (tag) (s : State) : exec (.begun tag) s = execBegun tag s := rfl
@[simp] theorem exec_ended (tag achieved) (s : State) :
    exec (.ended tag achieved) s = execEnded tag achieved s := rfl
@[simp] theorem exec_hold (s : State) : exec .hold s = execHold s := rfl
@[simp] theorem exec_release (s : State) : exec .release s = execRelease s := rfl
@[simp] theorem exec_clearHold (source) (s : State) :
    exec (.clearHold source) s = execClearHold source s := rfl
@[simp] theorem exec_resume (s : State) : exec .resume s = execResume s := rfl
@[simp] theorem exec_status (s : State) : exec .status s = execStatus s := rfl
@[simp] theorem exec_takeOutcomes (n) (s : State) :
    exec (.takeOutcomes n) s = execTakeOutcomes n s := rfl
@[simp] theorem exec_readNeighbours (first) (s : State) :
    exec (.readNeighbours first) s = execReadNeighbours first s := rfl
@[simp] theorem exec_readWindows (first) (s : State) :
    exec (.readWindows first) s = execReadWindows first s := rfl
@[simp] theorem exec_clearFaults (kinds) (s : State) :
    exec (.clearFaults kinds) s = execClearFaults kinds s := rfl
@[simp] theorem exec_clearLost (s : State) : exec .clearLost s = execClearLost s := rfl
@[simp] theorem exec_unknownCode (code) (s : State) :
    exec (.unknownCode code) s = execUnknownCode code s := rfl
@[simp] theorem exec_stormLineEvent (high) (s : State) :
    exec (.stormLineEvent high) s = execStormLineEvent high s := rfl
@[simp] theorem exec_parkFallingEdge (s : State) :
    exec .parkFallingEdge s = execParkFallingEdge s := rfl
@[simp] theorem exec_lsdDeasserted (s : State) : exec .lsdDeasserted s = execLsdDeasserted s := rfl
@[simp] theorem exec_lsdAsserted (s : State) : exec .lsdAsserted s = execLsdAsserted s := rfl
@[simp] theorem exec_frameReceived (rx) (s : State) :
    exec (.frameReceived rx) s = execFrameReceived rx s := rfl
@[simp] theorem exec_laneActivity (s : State) : exec .laneActivity s = execLaneActivity s := rfl
@[simp] theorem exec_laneQuiet (s : State) : exec .laneQuiet s = execLaneQuiet s := rfl
@[simp] theorem exec_gapEnd (s : State) : exec .gapEnd s = execGapEnd s := rfl
@[simp] theorem exec_endOfTransmission (s : State) :
    exec .endOfTransmission s = execEndOfTransmission s := rfl
@[simp] theorem exec_echoDeadline (s : State) : exec .echoDeadline s = execEchoDeadline s := rfl
@[simp] theorem exec_backoffEnd (s : State) : exec .backoffEnd s = execBackoffEnd s := rfl
@[simp] theorem exec_listenTimerExpiry (s : State) :
    exec .listenTimerExpiry s = execListenTimerExpiry s := rfl
@[simp] theorem exec_checkPeriodExpiry (s : State) :
    exec .checkPeriodExpiry s = execCheckPeriodExpiry s := rfl
@[simp] theorem exec_signalLossTimerExpiry (s : State) :
    exec .signalLossTimerExpiry s = execSignalLossTimerExpiry s := rfl
@[simp] theorem exec_refreshTimerExpiry (s : State) :
    exec .refreshTimerExpiry s = execRefreshTimerExpiry s := rfl
@[simp] theorem exec_geometryPoint (s : State) : exec .geometryPoint s = execGeometryPoint s := rfl
@[simp] theorem exec_intakeCompletion (s : State) :
    exec .intakeCompletion s = execIntakeCompletion s := rfl
@[simp] theorem exec_entryExpiry (station) (s : State) :
    exec (.entryExpiry station) s = execEntryExpiry station s := rfl
@[simp] theorem exec_windowClose (station move) (s : State) :
    exec (.windowClose station move) s = execWindowClose station move s := rfl
@[simp] theorem exec_binBoundary (s : State) : exec .binBoundary s = execBinBoundary s := rfl
@[simp] theorem exec_windStalenessExpiry (s : State) :
    exec .windStalenessExpiry s = execWindStalenessExpiry s := rfl
@[simp] theorem exec_waiveTime (tag) (s : State) :
    exec (.waiveTime tag) s = execWaiveTime tag s := rfl
@[simp] theorem exec_expiryTime (tag) (s : State) :
    exec (.expiryTime tag) s = execExpiryTime tag s := rfl
@[simp] theorem exec_paceDeadline (tag) (s : State) :
    exec (.paceDeadline tag) s = execPaceDeadline tag s := rfl
@[simp] theorem exec_holdOffExpiry (s : State) : exec .holdOffExpiry s = execHoldOffExpiry s := rfl
@[simp] theorem exec_yieldPauseExpiry (s : State) :
    exec .yieldPauseExpiry s = execYieldPauseExpiry s := rfl
@[simp] theorem exec_startTimeoutExpiry (s : State) :
    exec .startTimeoutExpiry s = execStartTimeoutExpiry s := rfl
@[simp] theorem exec_overrunExpiry (s : State) : exec .overrunExpiry s = execOverrunExpiry s := rfl
@[simp] theorem exec_settleExpiry (s : State) : exec .settleExpiry s = execSettleExpiry s := rfl
@[simp] theorem exec_guardAfterStart (s : State) :
    exec .guardAfterStart s = execGuardAfterStart s := rfl
@[simp] theorem exec_transactionEnd (s : State) :
    exec .transactionEnd s = execTransactionEnd s := rfl

end Sys2Proof.Machine
end

