-- ==== Sys2Proof/Laws/State.lean ====
section
/-! SUPPORT. Accessor lemmas: each block update changes its own block and no other (the lemmas of the
`mod…` and `with…` updates are generated beside their definitions), and a hold source reads back as
it was put. -/

namespace Sys2Proof.Machine

@[simp] theorem Holds.get_put_same (h : Holds) (src : HoldSource) (b : Bool) :
    (h.put src b).get src = b := by cases src <;> rfl

theorem Holds.get_put_of_ne (h : Holds) {src other : HoldSource} (b : Bool) (ne : other ≠ src) :
    (h.put src b).get other = h.get other := by
  cases src <;> cases other <;> first | rfl | exact absurd rfl ne

@[simp] theorem Holds.put_stormLatch (h : Holds) (src : HoldSource) (b : Bool) :
    (h.put src b).stormLatch = h.stormLatch := by cases src <;> rfl

@[simp] theorem Holds.put_parkLatch (h : Holds) (src : HoldSource) (b : Bool) :
    (h.put src b).parkLatch = h.parkLatch := by cases src <;> rfl

@[simp] theorem Holds.put_parkLatchedAt (h : Holds) (src : HoldSource) (b : Bool) :
    (h.put src b).parkLatchedAt = h.parkLatchedAt := by cases src <;> rfl

@[simp] theorem Holds.put_parkGrantedAt (h : Holds) (src : HoldSource) (b : Bool) :
    (h.put src b).parkGrantedAt = h.parkGrantedAt := by cases src <;> rfl

/-- The set is held exactly when some source is set (R159). -/
theorem Holds.held_iff (h : Holds) : h.held = true ↔ ∃ src, h.get src = true := by
  constructor
  · intro hh
    simp only [Holds.held, Bool.or_eq_true] at hh
    rcases hh with (((((hs | hs) | hs) | hs) | hs) | hs) | hs
    · exact ⟨.storm, hs⟩
    · exact ⟨.soft, hs⟩
    · exact ⟨.wind, hs⟩
    · exact ⟨.link, hs⟩
    · exact ⟨.guard, hs⟩
    · exact ⟨.halt, hs⟩
    · exact ⟨.park, hs⟩
  · rintro ⟨src, hs⟩
    cases src <;> simp_all [Holds.get, Holds.held]

/-- A source that is set holds the set. -/
theorem Holds.held_of_get {h : Holds} {src : HoldSource} (hs : h.get src = true) :
    h.held = true := h.held_iff.2 ⟨src, hs⟩

/-- Setting a source leaves the set held. -/
@[simp] theorem Holds.held_put_true (h : Holds) (src : HoldSource) : (h.put src true).held = true :=
  Holds.held_of_get (h.get_put_same src true)

end Sys2Proof.Machine
end

