-- ==== Sys2Proof/Laws/Keeps.lean ====
section
/-! SUPPORT. What the engine's and the recorder's operations leave alone. `Keeps s t` says it once;
each shared operation has its one lemma, and the meanings cite these. -/

namespace Sys2Proof.Machine

/-- `t` differs from `s` at most in the queue of requests, the engine (its offset kept), the builder,
the link (its state kept), the holds, the log, the recorder and the latched causes. -/
structure Keeps (s t : State) : Prop where
  pending : t.pending = s.pending
  now : t.now = s.now
  part : t.part = s.part
  pins : t.pins = s.pins
  port : t.port = s.port
  cfg : t.cfg = s.cfg
  wind : t.wind = s.wind
  intake : t.intake = s.intake
  neighbours : t.neighbours = s.neighbours
  windows : t.windows = s.windows
  quietMap : t.quietMap = s.quietMap
  offset : t.engine.offset = s.engine.offset
  trail : t.link.trail = s.link.trail
  final : t.link.final = s.link.final
  buffer : t.link.buffer = s.link.buffer
  collisions : t.link.collisions = s.link.collisions
  linkTimers : (t.link.listenTimer, t.link.checkTimer, t.link.signalLoss, t.link.refresh) =
    (s.link.listenTimer, s.link.checkTimer, s.link.signalLoss, s.link.refresh)
  heard : t.link.heardOther = s.link.heardOther
  sent : t.link.sent = s.link.sent
  sweepMarks : (t.attention.sweepExtended, t.attention.sweepUnderrun) =
    (s.attention.sweepExtended, s.attention.sweepUnderrun)

theorem Keeps.refl (s : State) : Keeps s s := by constructor <;> rfl

theorem Keeps.trans {s t u : State} (h : Keeps s t) (k : Keeps t u) : Keeps s u := by
  exact ⟨k.pending.trans h.pending,
    k.now.trans h.now,
    k.part.trans h.part,
    k.pins.trans h.pins,
    k.port.trans h.port,
    k.cfg.trans h.cfg,
    k.wind.trans h.wind,
    k.intake.trans h.intake,
    k.neighbours.trans h.neighbours,
    k.windows.trans h.windows,
    k.quietMap.trans h.quietMap,
    k.offset.trans h.offset,
    k.trail.trans h.trail,
    k.final.trans h.final,
    k.buffer.trans h.buffer,
    k.collisions.trans h.collisions,
    k.linkTimers.trans h.linkTimers,
    k.heard.trans h.heard,
    k.sent.trans h.sent,
    k.sweepMarks.trans h.sweepMarks⟩

/-! ### Block updates -/

theorem keeps_modQueue (s : State) (f) : Keeps s (s.modQueue f) := by constructor <;> rfl
theorem keeps_modBuilder (s : State) (f) : Keeps s (s.modBuilder f) := by constructor <;> rfl
theorem keeps_modHolds (s : State) (f) : Keeps s (s.modHolds f) := by constructor <;> rfl
theorem keeps_modLog (s : State) (f) : Keeps s (s.modLog f) := by constructor <;> rfl
theorem keeps_modRecorder (s : State) (f) : Keeps s (s.modRecorder f) := by constructor <;> rfl

theorem keeps_modEngine (s : State) (f : Engine → Engine)
    (h : ∀ e, (f e).offset = e.offset) : Keeps s (s.modEngine f) := by
  constructor <;> first | rfl | exact h _

/-! ### The transmitter -/

/-- A write changes nothing of the link but the slot, the note of the edition, the stage and the
generator. -/
theorem Link.write_keeps (lane urgent : Bool) (e : Edition) (l : Link) :
    (l.write lane urgent e).trail = l.trail ∧ (l.write lane urgent e).final = l.final ∧
    (l.write lane urgent e).buffer = l.buffer ∧
    (l.write lane urgent e).collisions = l.collisions ∧
    (l.write lane urgent e).listenTimer = l.listenTimer ∧
    (l.write lane urgent e).checkTimer = l.checkTimer ∧
    (l.write lane urgent e).signalLoss = l.signalLoss ∧
    (l.write lane urgent e).refresh = l.refresh ∧
    (l.write lane urgent e).heardOther = l.heardOther ∧
    (l.write lane urgent e).sent = l.sent := by
  unfold Link.write Link.beginAttempt Link.startGap
  dsimp only
  split
  · split <;> simp
  · simp

theorem Link.announce_keeps (lane : Bool) (e : Edition) (l : Link) :
    (l.announce lane e).trail = l.trail ∧ (l.announce lane e).final = l.final ∧
    (l.announce lane e).buffer = l.buffer ∧ (l.announce lane e).collisions = l.collisions ∧
    (l.announce lane e).listenTimer = l.listenTimer ∧
    (l.announce lane e).checkTimer = l.checkTimer ∧
    (l.announce lane e).signalLoss = l.signalLoss ∧ (l.announce lane e).refresh = l.refresh ∧
    (l.announce lane e).heardOther = l.heardOther ∧ (l.announce lane e).sent = l.sent := by
  unfold Link.announce
  split
  · exact l.write_keeps _ _ _
  · split
    · exact l.write_keeps _ _ _
    · split
      · exact l.write_keeps _ _ _
      · simp

theorem keeps_announce (s : State) : Keeps s (announce s) := by
  obtain ⟨h1, h2, h3, h4, h5, h6, h7, h8, h9, h10⟩ :=
    s.link.announce_keeps s.pins.laneActive (content s)
  constructor <;> first | rfl | assumption | simp [announce, *]

/-! ### Giving up, holding, raising, offering -/

theorem keeps_withdraw (s : State) : Keeps s (withdraw s) := by
  unfold withdraw headAt
  refine Keeps.trans ?_ (keeps_announce _)
  refine Keeps.trans ?_ (keeps_modQueue _ _)
  exact keeps_modEngine _ _ fun _ => rfl

theorem keeps_lapse (s : State) : Keeps s (lapse s) := by
  unfold lapse headAt
  refine Keeps.trans ?_ (keeps_announce _)
  refine Keeps.trans ?_ (keeps_modQueue _ _)
  exact keeps_modEngine _ _ fun _ => rfl

theorem keeps_heldEffect (s : State) : Keeps s (heldEffect s) := by
  unfold heldEffect
  split
  · exact keeps_withdraw s
  · exact keeps_lapse s
  · exact Keeps.refl s

theorem keeps_latchHold (s : State) : Keeps s (latchHold s) := by constructor <;> rfl

theorem keeps_reportSet (src : HoldSource) (s : State) : Keeps s (reportSet src s) := by
  unfold reportSet
  split
  · exact Keeps.refl s
  · exact ((keeps_modHolds s _).trans (keeps_latchHold _)).trans (keeps_heldEffect _)

theorem keeps_raiseFault (k : FaultKind) (ctx : FaultContext) (s : State) :
    Keeps s (raiseFault k ctx s) := by
  unfold raiseFault
  split
  · exact Keeps.refl s
  · dsimp only
    split
    · exact (keeps_modRecorder s _).trans (keeps_reportSet _ _)
    · exact keeps_modRecorder s _

theorem keeps_guardRise (s : State) : Keeps s (guardRise s) := by
  unfold guardRise
  split
  · exact keeps_reportSet _ _
  · exact Keeps.refl s

theorem keeps_offer (r : OutcomeRecord) (s : State) : Keeps s (offer r s) := by
  unfold offer
  split
  · exact (keeps_raiseFault _ _ s).trans (keeps_guardRise _)
  · split
    · exact ((keeps_modLog s _).trans (keeps_raiseFault _ _ _)).trans (keeps_guardRise _)
    · exact (keeps_modLog s _).trans (keeps_guardRise _)

theorem keeps_completeRequest (r : Request) (o : OutcomeCode) (s : State) :
    Keeps s (completeRequest r o s) := (keeps_modQueue s _).trans (keeps_offer _ _)

/-! ### The engine -/

theorem keeps_takeHead (s : State) : Keeps s (takeHead s) := by
  unfold takeHead
  split
  · exact keeps_modEngine s _ fun _ => rfl
  · exact (keeps_modQueue s _).trans (keeps_modEngine _ _ fun _ => rfl)

theorem keeps_enterIntent (s : State) : Keeps s (enterIntent s) := by
  unfold enterIntent headAt
  refine Keeps.trans ?_ (keeps_announce _)
  refine Keeps.trans ?_ (keeps_modQueue _ _)
  refine Keeps.trans ?_ (keeps_modEngine _ _ fun _ => rfl)
  exact keeps_modBuilder _ _

theorem keeps_enterGranted (s : State) : Keeps s (enterGranted s) := by
  unfold enterGranted
  split
  · exact Keeps.refl s
  · refine Keeps.trans ?_ (keeps_announce _)
    refine Keeps.trans ?_ (keeps_modEngine _ _ fun _ => rfl)
    exact (keeps_modQueue _ _).trans (keeps_modBuilder _ _)

theorem keeps_evaluateN (n : Nat) (s : State) : Keeps s (evaluateN n s) := by
  induction n generalizing s with
  | zero => exact Keeps.refl s
  | succ n ih =>
    unfold evaluateN
    split
    · split
      · exact Keeps.refl s
      · exact ((keeps_completeRequest _ _ s).trans (keeps_takeHead _)).trans (ih _)
      · exact keeps_enterIntent s
    · exact Keeps.refl s

theorem keeps_evaluate (s : State) : Keeps s (evaluate s) := keeps_evaluateN _ s

theorem keeps_takeNext (s : State) : Keeps s (takeNext s) :=
  (keeps_takeHead s).trans (keeps_evaluate _)

theorem keeps_yieldIntent (s : State) : Keeps s (yieldIntent s) := by
  unfold yieldIntent
  have h := ((keeps_modQueue s
      (modFront fun r => { r with position := .waiting, yields := r.yields + 1 })).trans
    (keeps_modEngine _ (fun e =>
        { e with
          state := .waiting
          holdOff := none
          expired := false
          echo := false
          yieldPause := some (later s.now s.cfg.holdOff) }) fun _ => rfl)).trans (keeps_announce _)
  dsimp only
  split
  · exact h
  · split
    · exact (h.trans (keeps_completeRequest _ _ _)).trans (keeps_takeNext _)
    · exact h

theorem keeps_commitTest (s : State) : Keeps s (commitTest s) := by
  unfold commitTest
  split
  · exact (keeps_withdraw s).trans (keeps_evaluate _)
  · split
    · exact (keeps_withdraw s).trans (keeps_evaluate _)
    · split
      · exact keeps_yieldIntent s
      · exact keeps_enterGranted s

theorem keeps_intentTests (atIntake : Bool) (s : State) : Keeps s (intentTests atIntake s) := by
  unfold intentTests
  split
  · exact (keeps_withdraw s).trans (keeps_evaluate _)
  · split
    · exact (keeps_withdraw s).trans (keeps_evaluate _)
    · split
      · exact keeps_yieldIntent s
      · split
        · exact keeps_commitTest s
        · exact Keeps.refl s

theorem keeps_evalPoint (atIntake : Bool) (s : State) : Keeps s (evalPoint atIntake s) := by
  unfold evalPoint
  split
  · exact keeps_evaluate s
  · exact keeps_intentTests atIntake s
  all_goals exact Keeps.refl s

theorem keeps_reportClear (src : HoldSource) (s : State) : Keeps s (reportClear src s) := by
  unfold reportClear
  split
  · exact Keeps.refl s
  · have h := (keeps_modHolds s fun h => h.put src false).trans (keeps_latchHold _)
    dsimp only
    split
    · exact h.trans (keeps_heldEffect _)
    · exact h.trans (keeps_evalPoint _ _)

theorem keeps_reportGuard (s : State) : Keeps s (reportGuard s) := by
  unfold reportGuard
  split
  · split
    · exact keeps_reportSet _ _
    · exact keeps_reportClear _ _
  · exact Keeps.refl s

/-! ### The end of a move and the park -/

theorem keeps_enterSettling (s : State) : Keeps s (enterSettling s) := by
  unfold enterSettling
  dsimp only
  refine Keeps.trans ?_ (keeps_announce _)
  refine Keeps.trans ?_ (keeps_modEngine _ _ fun _ => rfl)
  refine Keeps.trans ?_ (keeps_modBuilder _ _)
  split
  · exact keeps_modQueue _ _
  all_goals exact Keeps.refl s

theorem keeps_endSettling (s : State) : Keeps s (endSettling s) := by
  unfold endSettling
  refine Keeps.trans ?_ (keeps_evaluate _)
  refine Keeps.trans ?_ (keeps_announce _)
  refine Keeps.trans ?_ (keeps_takeHead _)
  exact keeps_modEngine _ _ fun _ => rfl

theorem keeps_afterEnded (s : State) : Keeps s (afterEnded s) := by
  unfold afterEnded
  split
  · refine Keeps.trans ?_ (keeps_announce _)
    exact keeps_modEngine _ _ fun _ => rfl
  · split
    · exact keeps_endSettling s
    · exact keeps_enterSettling s

theorem keeps_enterGrantedPark (s : State) : Keeps s (enterGrantedPark s) := by
  unfold enterGrantedPark
  dsimp only
  refine Keeps.trans ?_ (keeps_announce _)
  refine Keeps.trans ?_ (keeps_modEngine _ _ fun _ => rfl)
  refine Keeps.trans ?_ (keeps_modBuilder _ _)
  refine Keeps.trans ?_ (keeps_modHolds _ _)
  split
  · exact keeps_modQueue _ _
  all_goals exact Keeps.refl s

theorem keeps_clearParkLatch (s : State) : Keeps s (clearParkLatch s) :=
  (keeps_modHolds s _).trans (keeps_reportClear _ _)

theorem keeps_parkAtEnded (s : State) : Keeps s (parkAtEnded s) := by
  unfold parkAtEnded
  split
  · exact ((keeps_offer _ s).trans (keeps_clearParkLatch _)).trans (keeps_afterEnded _)
  · exact keeps_enterGrantedPark s

theorem keeps_finishPark (s : State) : Keeps s (finishPark s) := by
  unfold finishPark
  refine Keeps.trans ?_ (keeps_clearParkLatch _)
  refine Keeps.trans ?_ (keeps_modEngine _ _ fun _ => rfl)
  exact keeps_offer _ _

theorem keeps_servePark (s : State) : Keeps s (servePark s) := by
  unfold servePark
  split
  · exact keeps_offer _ s
  · have h := (keeps_modHolds s fun h =>
      { h with parkLatch := true, parkLatchedAt := some s.now }).trans (keeps_reportSet .park _)
    dsimp only
    split
    · exact h
    all_goals exact h.trans (keeps_enterGrantedPark _)

end Sys2Proof.Machine
end

