-- ==== Sys2Proof/Laws/Engine.lean ====
section
/-! SUPPORT. What the engine's shared operations do, once each: the announcement, the evaluation of a
head, a hold source set or clear, and the offer of a record to a log with room. -/

namespace Sys2Proof.Machine

/-! ### The announcement -/

theorem Link.beginAttempt_eq (lane : Bool) (l : Link) : l.beginAttempt lane = l.attempting lane := by
  unfold Link.beginAttempt Link.attempting Link.startGap jitterYield jitterNext
  split <;> rfl

/-- A write with the pending mark. -/
theorem Link.write_urgent (lane : Bool) (e : Edition) (l : Link) :
    l.write lane true e = l.sendsAnew lane e := by
  unfold Link.write Link.sendsAnew
  simp only [Bool.or_true, Bool.true_and, Bool.and_eq_true, decide_eq_true_eq,
    Link.beginAttempt_eq]

/-- A write without the pending mark. -/
theorem Link.write_quiet (lane : Bool) (e : Edition) (l : Link) : l.write lane false e =
    { l with slot := ⟨some e, l.slot.pending, false⟩, sentCurrent := false } := by
  unfold Link.write
  simp

/-- What the builder's one write does (R47), from any state with the same link and lines. -/
theorem announce_announced {s0 s : State} {p : Phase} {c : Cls} {age : Nat} {a b : Int}
    (hl : s.link = s0.link) (hp : s.pins = s0.pins) (hc : content s = s.edition p c age a b) :
    Announced s0 (announce s) p c age a b := by
  have hedit : (announce s).edition p c age a b = s.edition p c age a b := rfl
  have hmove : (announce s).builder = s.builder := rfl
  have hlink : (announce s).link = Link.announce s0.pins.laneActive (s.edition p c age a b) s0.link := by
    simp only [announce, State.modLink_link, hc, hl, hp]
  unfold Announced
  rw [hedit, hmove, hlink]
  unfold Link.announce
  cases h : s0.link.slot.edition with
  | none => simp only [Link.write_urgent]
  | some old =>
    simp only [State.edition, Link.write_urgent, Link.write_quiet, ne_eq]
    split_ifs <;> first | rfl | (exfalso; simp_all)

/-- An announcement changes the link alone. -/
theorem announce_eq (s : State) : announce s = { s with link := (announce s).link } := rfl

theorem content_idle {s : State} (h : phaseOf s.engine.state = .idle) :
    content s = s.edition .idle .normal 0 s.engine.offset s.engine.offset := by
  simp [content, State.edition, h]

theorem content_intent {s : State} {r : Request} {rest : List Request}
    (h : s.engine.state = .intent) (hq : s.queue = r :: rest) :
    content s = s.edition .intent r.cls s.builder.claimAge s.engine.offset s.engine.offset := by
  simp [content, State.edition, phaseOf, h, hq]

theorem content_grant {s : State} {g : Grant} {p : Phase} (hp : phaseOf s.engine.state = p)
    (hi : p ≠ .idle) (ht : p ≠ .intent) (hg : s.engine.grant = some g) :
    content s = s.edition p g.cls 0 g.fromOffset g.target := by
  subst hp
  cases h : s.engine.state <;> simp_all [content, State.edition, phaseOf]

/-- IDLE announced from any state with the same link and lines. -/
theorem announce_idle {s0 s : State} (hl : s.link = s0.link) (hp : s.pins = s0.pins)
    (h : phaseOf s.engine.state = .idle) : AnnouncedIdle s0 (announce s) :=
  announce_announced hl hp (content_idle h)

/-! ### The evaluation of the head (R137, R138) -/

theorem evaluate_of_ne {s : State} (h : s.engine.state ≠ .waiting) : evaluate s = s := by
  unfold evaluate evaluateN
  split <;> simp_all

theorem evaluate_nil {s : State} (h : s.queue = []) : evaluate s = s := by
  unfold evaluate evaluateN
  split <;> simp_all

theorem evaluate_cons {s : State} {r : Request} {rest : List Request}
    (h : s.engine.state = .waiting) (hq : s.queue = r :: rest) :
    evaluate s = match verdict s r with
      | .stay => s
      | .zeroLength o => evaluateN s.queue.length (takeHead (completeRequest r o s))
      | .intent => enterIntent s := by
  unfold evaluate
  conv_lhs => unfold evaluateN
  simp only [h, hq] <;> rfl

theorem verdict_of_held {s : State} (h : s.holds.held = true) (r : Request) :
    verdict s r = .stay := by simp [verdict, h]

theorem evaluate_of_held {s : State} (h : s.holds.held = true) : evaluate s = s := by
  by_cases hs : s.engine.state = .waiting
  · cases hq : s.queue with
    | nil => exact evaluate_nil hq
    | cons r rest => rw [evaluate_cons hs hq, verdict_of_held h]
  · exact evaluate_of_ne hs

theorem verdict_of_passes {s : State} {r : Request} (h : PassesTests s r) :
    verdict s r = .intent := by
  obtain ⟨h1, h2, h3, h4, h5, h6⟩ := h
  simp [verdict, h1, h2, h3, h4, h5]
  omega

theorem verdict_of_stays {s : State} {r : Request} (h : HeadStays s r) : verdict s r = .stay := by
  unfold verdict guardLevel
  rcases h with h | h | ⟨h1, h2, h3⟩ | ⟨h1, h2⟩
  · simp [h]
  · simp [h]
  · simp [h1, h2, h3]
  · rw [if_neg h1]
    rcases h2 with h2 | h2 | h2
    · simp [Option.isSome_iff_ne_none.2 h2]
    · simp [h2]
    · simp [h2]

theorem verdict_of_zeroLength {s : State} {r : Request} (h1 : s.holds.held = false)
    (h2 : r.eligible = true) (h3 : requestTarget s.cfg s.engine.offset r = s.engine.offset)
    (h4 : LogHasRoom s) : verdict s r = .zeroLength (if r.isSweep then .atLimit else .done) := by
  unfold verdict guardLevel
  have : ¬(s.cfg.fullPolicy = .hold ∧ 14 ≤ s.log.records.length) := fun ⟨a, b⟩ => by
    have := h4.2.2 a
    omega
  simp only [h1, h2, h3, this, if_true, Bool.not_true, Bool.false_eq_true, if_false, decide_false]
  cases r with | mk _ _ job _ _ _ _ => cases job <;> rfl

theorem enterIntent_entersIntent {s : State} {r : Request} {rest : List Request}
    (hq : s.queue = r :: rest) : EntersIntent s (enterIntent s) r rest := by
  refine ⟨rfl, ?_, ?_, ?_⟩
  · simp [enterIntent, announce, headAt, hq, modFront, Request.at]
  · simp [enterIntent, announce, headAt, hq, claimAgeOf]
  · unfold enterIntent
    exact announce_announced rfl rfl
      (content_intent (r := { r with position := .intent }) (rest := rest) rfl
        (by simp [headAt, hq, modFront, Request.at]))

/-- A head that a test keeps stays, and nothing changes. -/
theorem evaluate_of_stays {s : State} {r : Request} {rest : List Request}
    (hq : s.queue = r :: rest) (h : HeadStays s r) : evaluate s = s := by
  by_cases hs : s.engine.state = .waiting
  · rw [evaluate_cons hs hq, verdict_of_stays h]
  · exact evaluate_of_ne hs

/-- A head that passes every test enters INTENT, and nothing but the engine, the queue, the builder
and the link changes. -/
theorem evaluate_of_passes {s : State} {r : Request} {rest : List Request}
    (h : s.engine.state = .waiting) (hq : s.queue = r :: rest) (hp : PassesTests s r) :
    EntersIntent s (evaluate s) r rest ∧
      evaluate s = { s with
        engine := (evaluate s).engine
        queue := (evaluate s).queue
        builder := (evaluate s).builder
        link := (evaluate s).link } := by
  rw [evaluate_cons h hq, verdict_of_passes hp]
  exact ⟨enterIntent_entersIntent hq, rfl⟩

/-! ### Hold sources -/

theorem heldEffect_takesEffect (s : State) : HoldTakesEffect s (heldEffect s) := by
  unfold HoldTakesEffect heldEffect
  cases hs : s.engine.state <;> cases hw : s.engine.work <;>
    simp only [reduceCtorEq, if_true, if_false, and_self, and_true, and_false] <;>
    first
    | exact ⟨trivial, trivial, trivial⟩
    | exact ⟨rfl, rfl, rfl, announce_idle rfl rfl rfl⟩

/-- A held effect leaves nothing of itself to do again. -/
theorem heldEffect_eq (s : State) : heldEffect s = { s with
    engine := (heldEffect s).engine
    queue := (heldEffect s).queue
    link := (heldEffect s).link } := by
  unfold heldEffect
  split <;> rfl

theorem heldEffect_of_coherent {s : State} (h1 : s.engine.state ≠ .intent)
    (h2 : ¬(s.engine.state = .granted ∧ s.engine.work = .request)) : heldEffect s = s := by
  unfold heldEffect
  split <;> simp_all

/-- After a held effect the engine stands neither in INTENT nor in GRANTED for normal work. -/
theorem heldEffect_blocks (s : State) : (heldEffect s).engine.state ≠ .intent ∧
    ¬((heldEffect s).engine.state = .granted ∧ (heldEffect s).engine.work = .request) := by
  unfold heldEffect
  split
  · simp [withdraw, announce, headAt]
  · simp [lapse, announce, headAt]
  · constructor <;> simp_all

theorem reportSet_sourceSet {s : State} {src : HoldSource} (hp : s.part ≠ .config)
    (hs : s.holds.get src = false) : SourceSet s (reportSet src s) src := by
  have e : reportSet src s = heldEffect (latchHold (s.modHolds fun h => h.put src true)) := by
    unfold reportSet; simp [hp, hs]
  rw [e]
  exact ⟨heldEffect_eq _,
    heldEffect_takesEffect (latchHold (s.modHolds fun h => h.put src true))⟩

theorem reportSet_of_set {s : State} {src : HoldSource} (hs : s.holds.get src = true) :
    reportSet src s = s := by unfold reportSet; simp [hs]

theorem reportSet_of_config {s : State} {src : HoldSource} (hs : s.part = .config) :
    reportSet src s = s := by unfold reportSet; simp [hs]

theorem reportClear_of_clear {s : State} {src : HoldSource} (hs : s.holds.get src = false) :
    reportClear src s = s := by unfold reportClear; simp [hs]

/-! ### The offer of a record to a log with room -/

theorem offer_of_room {s : State} (h : LogHasRoom s) (r : OutcomeRecord) :
    offer r s = { s with log := s.logWith r } := by
  obtain ⟨h1, h2, h3⟩ := h
  unfold offer guardRise
  have : ¬(16 ≤ s.log.records.length) := by omega
  simp only [h1, this, if_false, Bool.false_eq_true]
  rw [if_neg]
  · rfl
  · rintro ⟨hh, hl⟩
    have := h3 hh
    simp at hl
    omega

/-- A completion in a log with room: the request leaves, its record joins the log (R118). -/
theorem completeRequest_of_room {s : State} (h : LogHasRoom s) (r : Request) (o : OutcomeCode) :
    completeRequest r o s = { s with
      queue := withoutTag r.tag s.queue
      log := s.logWith (completionRecord s r o) } := by
  unfold completeRequest
  have h' : LogHasRoom (s.modQueue (removeTag r.tag)) := h
  rw [offer_of_room h']
  cases r with | mk tag cls job pos w y g => cases w <;> cases g <;> rfl

end Sys2Proof.Machine
end

