-- ==== Sys2Proof/Laws/Port.lean ====
section
/-! SUPPORT. The engine's operations do not read the port: each commutes with a change of it, so the
answer of a command may be put down before them or after them. -/

namespace Sys2Proof.Machine

theorem ite_modPort (g : Port → Port) {c : Prop} [Decidable c] {a b a' b' : State}
    (ha : a' = a.modPort g) (hb : b' = b.modPort g) :
    (if c then a' else b') = (if c then a else b).modPort g := by
  subst ha hb
  split <;> rfl

theorem announce_modPort (g : Port → Port) (s : State) :
    announce (s.modPort g) = (announce s).modPort g := rfl

theorem withdraw_modPort (g : Port → Port) (s : State) :
    withdraw (s.modPort g) = (withdraw s).modPort g := rfl

theorem lapse_modPort (g : Port → Port) (s : State) :
    lapse (s.modPort g) = (lapse s).modPort g := rfl

theorem enterIntent_modPort (g : Port → Port) (s : State) :
    enterIntent (s.modPort g) = (enterIntent s).modPort g := rfl

theorem heldEffect_modPort (g : Port → Port) (s : State) :
    heldEffect (s.modPort g) = (heldEffect s).modPort g := by
  unfold heldEffect
  rcases s with ⟨⟩
  dsimp only [State.modPort]
  split <;> rfl

theorem reportSet_modPort (g : Port → Port) (src : HoldSource) (s : State) :
    reportSet src (s.modPort g) = (reportSet src s).modPort g :=
  ite_modPort g rfl (heldEffect_modPort g (latchHold (s.modHolds fun h => h.put src true)))

theorem raiseFault_modPort (g : Port → Port) (k : FaultKind) (ctx : FaultContext) (s : State) :
    raiseFault k ctx (s.modPort g) = (raiseFault k ctx s).modPort g :=
  ite_modPort g rfl <| ite_modPort g
    (reportSet_modPort g .halt (s.modRecorder fun f =>
      { status := f.status ||| kindBit k
        first := if f.status = 0 then some ⟨k, s.now, ctx⟩ else f.first })) rfl

theorem guardRise_modPort (g : Port → Port) (s : State) :
    guardRise (s.modPort g) = (guardRise s).modPort g :=
  ite_modPort g (reportSet_modPort g .guard s) rfl

theorem offer_modPort (g : Port → Port) (r : OutcomeRecord) (s : State) :
    offer r (s.modPort g) = (offer r s).modPort g := by
  refine ite_modPort g ?_ (ite_modPort g ?_ 
    (guardRise_modPort g (s.modLog fun l => { l with records := l.records ++ [r] })))
  · rw [raiseFault_modPort]
    exact guardRise_modPort g (raiseFault .outcomeLost (tagContext r.tag) s)
  · rw [← guardRise_modPort, ← raiseFault_modPort]
    rfl

theorem completeRequest_modPort (g : Port → Port) (r : Request) (o : OutcomeCode) (s : State) :
    completeRequest r o (s.modPort g) = (completeRequest r o s).modPort g :=
  offer_modPort g (recordOf r o s) (s.modQueue (removeTag r.tag))

theorem takeHead_modPort (g : Port → Port) (s : State) :
    takeHead (s.modPort g) = (takeHead s).modPort g := by
  rcases s with ⟨⟩
  unfold takeHead
  dsimp only [State.modPort]
  split <;> rfl

theorem enterGranted_modPort (g : Port → Port) (s : State) :
    enterGranted (s.modPort g) = (enterGranted s).modPort g := by
  rcases s with ⟨⟩
  unfold enterGranted
  dsimp only [State.modPort]
  split <;> rfl

theorem evaluateN_modPort (g : Port → Port) (n : Nat) (s : State) :
    evaluateN n (s.modPort g) = (evaluateN n s).modPort g := by
  induction n generalizing s with
  | zero => rfl
  | succ n ih =>
    have e : ∀ s : State, evaluateN (n + 1) s =
        match s.engine.state, s.queue with
        | .waiting, r :: _ =>
          match verdict s r with
          | .stay => s
          | .zeroLength o => evaluateN n (takeHead (completeRequest r o s))
          | .intent => enterIntent s
        | _, _ => s := fun _ => rfl
    have hv : ∀ r, verdict (s.modPort g) r = verdict s r := fun _ => rfl
    rw [e, e, State.modPort_engine, State.modPort_queue]
    split
    · rw [hv]
      split
      · rfl
      · rw [completeRequest_modPort, takeHead_modPort, ih]
      · rfl
    · rfl

theorem evaluate_modPort (g : Port → Port) (s : State) :
    evaluate (s.modPort g) = (evaluate s).modPort g := evaluateN_modPort g _ s

theorem takeNext_modPort (g : Port → Port) (s : State) :
    takeNext (s.modPort g) = (takeNext s).modPort g := by
  unfold takeNext
  rw [takeHead_modPort, evaluate_modPort]

theorem yieldIntent_modPort (g : Port → Port) (s : State) :
    yieldIntent (s.modPort g) = (yieldIntent s).modPort g := by
  have e : ∀ s : State, yieldIntent s =
      let y := announce <|
        (s.modQueue (modFront fun r =>
          { r with position := .waiting, yields := r.yields + 1 })).modEngine fun e =>
            { e with
              state := .waiting
              holdOff := none
              expired := false
              echo := false
              yieldPause := some (later s.now s.cfg.holdOff) }
      match y.queue with
      | [] => y
      | r :: _ =>
        if s.cfg.yieldLimit ≤ r.yields then takeNext (completeRequest r .gaveUp y) else y :=
    fun _ => rfl
  rw [e, e]
  dsimp only
  cases hq : s.queue with
  | nil =>
    simp only [announce, State.modLink_queue, State.modEngine_queue, State.modQueue_queue,
      State.modPort_queue, hq, modFront]
    rfl
  | cons r rest =>
    simp only [announce, State.modLink_queue, State.modEngine_queue, State.modQueue_queue,
      State.modPort_queue, hq, modFront]
    refine ite_modPort g ?_ rfl
    rw [← takeNext_modPort, ← completeRequest_modPort]
    rfl

theorem commitTest_modPort (g : Port → Port) (s : State) :
    commitTest (s.modPort g) = (commitTest s).modPort g := by
  have h : evaluate (withdraw (s.modPort g)) = (evaluate (withdraw s)).modPort g := by
    rw [withdraw_modPort, evaluate_modPort]
  exact ite_modPort g h <| ite_modPort g h <|
    ite_modPort g (yieldIntent_modPort g s) (enterGranted_modPort g s)

theorem intentTests_modPort (g : Port → Port) (atIntake : Bool) (s : State) :
    intentTests atIntake (s.modPort g) = (intentTests atIntake s).modPort g := by
  have h : evaluate (withdraw (s.modPort g)) = (evaluate (withdraw s)).modPort g := by
    rw [withdraw_modPort, evaluate_modPort]
  exact ite_modPort g h <| ite_modPort g h <|
    ite_modPort g (yieldIntent_modPort g s) <| ite_modPort g (commitTest_modPort g s) rfl

theorem evalPoint_modPort (g : Port → Port) (atIntake : Bool) (s : State) :
    evalPoint atIntake (s.modPort g) = (evalPoint atIntake s).modPort g := by
  unfold evalPoint
  rw [State.modPort_engine]
  split
  · exact evaluate_modPort g s
  · exact intentTests_modPort g atIntake s
  all_goals rfl

theorem reportClear_modPort (g : Port → Port) (src : HoldSource) (s : State) :
    reportClear src (s.modPort g) = (reportClear src s).modPort g :=
  ite_modPort g rfl <| ite_modPort g
    (heldEffect_modPort g (latchHold (s.modHolds fun h => h.put src false)))
    (evalPoint_modPort g false (latchHold (s.modHolds fun h => h.put src false)))

theorem reportGuard_modPort (g : Port → Port) (s : State) :
    reportGuard (s.modPort g) = (reportGuard s).modPort g :=
  ite_modPort g
    (ite_modPort g (reportSet_modPort g .guard s) (reportClear_modPort g .guard s)) rfl

theorem acceptRequest_modPort (g : Port → Port) (r : Request) (s : State) :
    acceptRequest r (s.modPort g) = (acceptRequest r s).modPort g := by
  unfold acceptRequest
  rw [State.modPort_engine, ← evalPoint_modPort]
  dsimp only
  split <;> first
    | rfl
    | (rw [← takeHead_modPort]; rfl)

theorem completeDeferred_modPort (g : Port → Port) (n : Nat) (s : State) :
    completeDeferred n (s.modPort g) = (completeDeferred n s).modPort g := by
  induction n generalizing s with
  | zero => rfl
  | succ n ih =>
    refine ite_modPort g rfl ?_
    rw [State.modPort_queue]
    split
    · rfl
    · rename_i r _
      dsimp only
      rw [completeRequest_modPort, ← ih]
      congr 1
      exact ite_modPort g (takeNext_modPort g _) rfl

theorem afterFall_modPort (g : Port → Port) (s : State) :
    afterFall (s.modPort g) = (afterFall s).modPort g := by
  unfold afterFall
  rw [State.modPort_cfg, State.modPort_queue, completeDeferred_modPort, reportGuard_modPort]
  split
  · exact ite_modPort g (evalPoint_modPort g false _) rfl
  · exact ite_modPort g (evalPoint_modPort g false _) rfl

end Sys2Proof.Machine
end

