-- ==== Sys2Proof/Laws/Progress.lean ====
section
/-! SUPPORT. What every evaluation, completion and offer respects: requests only leave, records only
join, faults only rise, and of the hold set only GUARD and HALT can be set by them. -/

namespace Sys2Proof.Machine

structure Progress (s t : State) : Prop where
  tags : ∀ x ∈ t.queue, ∃ y ∈ s.queue, y.tag = x.tag
  log : s.log.records <+: t.log.records
  status : ∀ k, hasKind s.recorder.status k = true → hasKind t.recorder.status k = true
  holds : ∀ src, src ≠ .guard → src ≠ .halt → t.holds.get src = s.holds.get src
  latches : (t.holds.stormLatch, t.holds.parkLatch) = (s.holds.stormLatch, s.holds.parkLatch)
  latched : s.attention.holdLatched = true → t.attention.holdLatched = true

theorem Progress.refl (s : State) : Progress s s :=
  ⟨fun x h => ⟨x, h, rfl⟩, List.prefix_refl _, fun _ h => h, fun _ _ _ => rfl, rfl, fun h => h⟩

theorem Progress.trans {s t u : State} (h : Progress s t) (k : Progress t u) : Progress s u := by
  refine ⟨fun x hx => ?_, h.log.trans k.log, fun f hf => k.status f (h.status f hf),
    fun src h1 h2 => (k.holds src h1 h2).trans (h.holds src h1 h2), k.latches.trans h.latches,
    fun hl => k.latched (h.latched hl)⟩
  obtain ⟨y, hy, e⟩ := k.tags x hx
  obtain ⟨z, hz, e'⟩ := h.tags y hy
  exact ⟨z, hz, e'.trans e⟩

/-- A change of the queue that adds no tag. -/
theorem progress_modQueue (s : State) (f : List Request → List Request)
    (h : ∀ x ∈ f s.queue, ∃ y ∈ s.queue, y.tag = x.tag) : Progress s (s.modQueue f) :=
  ⟨h, List.prefix_refl _, fun _ h => h, fun _ _ _ => rfl, rfl, fun h => h⟩

theorem progress_modEngine (s : State) (f : Engine → Engine) : Progress s (s.modEngine f) :=
  ⟨fun x h => ⟨x, h, rfl⟩, List.prefix_refl _, fun _ h => h, fun _ _ _ => rfl, rfl, fun h => h⟩

theorem progress_modBuilder (s : State) (f : Builder → Builder) : Progress s (s.modBuilder f) :=
  ⟨fun x h => ⟨x, h, rfl⟩, List.prefix_refl _, fun _ h => h, fun _ _ _ => rfl, rfl, fun h => h⟩

theorem progress_announce (s : State) : Progress s (announce s) :=
  ⟨fun x h => ⟨x, h, rfl⟩, List.prefix_refl _, fun _ h => h, fun _ _ _ => rfl, rfl, fun h => h⟩

theorem progress_modLog (s : State) (r : OutcomeRecord) :
    Progress s (s.modLog fun l => { l with records := l.records ++ [r] }) :=
  ⟨fun x h => ⟨x, h, rfl⟩, List.prefix_append _ _, fun _ h => h, fun _ _ _ => rfl, rfl, fun h => h⟩

theorem progress_lose (s : State) (b : Bool) :
    Progress s (s.modLog fun l => { l with lost := b }) :=
  ⟨fun x h => ⟨x, h, rfl⟩, List.prefix_refl _, fun _ h => h, fun _ _ _ => rfl, rfl, fun h => h⟩

theorem modFront_tags {f : Request → Request} (hf : ∀ r, (f r).tag = r.tag) (q : List Request) :
    ∀ x ∈ modFront f q, ∃ y ∈ q, y.tag = x.tag := by
  cases q with
  | nil => intro x hx; cases hx
  | cons r rest =>
    intro x hx
    simp only [modFront, List.mem_cons] at hx
    rcases hx with rfl | hx
    · exact ⟨r, by simp, (hf r).symm⟩
    · exact ⟨x, by simp [hx], rfl⟩

theorem progress_headAt (p : Position) (s : State) : Progress s (headAt p s) :=
  progress_modQueue s _ (modFront_tags (f := fun r => r.at p) (fun _ => rfl) _)

theorem progress_withdraw (s : State) : Progress s (withdraw s) :=
  ((progress_modEngine s _).trans (progress_headAt _ _)).trans (progress_announce _)

theorem progress_lapse (s : State) : Progress s (lapse s) :=
  ((progress_modEngine s _).trans (progress_headAt _ _)).trans (progress_announce _)

theorem progress_heldEffect (s : State) : Progress s (heldEffect s) := by
  unfold heldEffect
  split
  · exact progress_withdraw s
  · exact progress_lapse s
  · exact Progress.refl s

/-- The report of GUARD or HALT set. -/
theorem progress_reportSet {src : HoldSource} (h : src = .guard ∨ src = .halt) (s : State) :
    Progress s (reportSet src s) := by
  unfold reportSet
  split
  · exact Progress.refl s
  · refine Progress.trans ?_ (progress_heldEffect _)
    refine ⟨fun x h => ⟨x, h, rfl⟩, List.prefix_refl _, fun _ h => h, fun o h1 h2 => ?_, ?_,
      fun _ => rfl⟩
    · have : o ≠ src := by rcases h with rfl | rfl <;> assumption
      exact Holds.get_put_of_ne _ _ this
    · simp [latchHold]

theorem hasKind_or {a b : BitVec 10} {k : FaultKind} (h : hasKind a k = true) :
    hasKind (a ||| b) k = true := by simp_all [hasKind]

theorem progress_raiseFault (k : FaultKind) (ctx : FaultContext) (s : State) :
    Progress s (raiseFault k ctx s) := by
  unfold raiseFault
  split
  · exact Progress.refl s
  · have h : Progress s (s.modRecorder fun f =>
        { status := f.status ||| kindBit k
          first := if f.status = 0 then some ⟨k, s.now, ctx⟩ else f.first }) :=
      ⟨fun x h => ⟨x, h, rfl⟩, List.prefix_refl _, fun _ h => hasKind_or h, fun _ _ _ => rfl, rfl,
        fun h => h⟩
    dsimp only
    split
    · exact h.trans (progress_reportSet (.inr rfl) _)
    · exact h

theorem progress_guardRise (s : State) : Progress s (guardRise s) := by
  unfold guardRise
  split
  · exact progress_reportSet (.inl rfl) s
  · exact Progress.refl s

theorem progress_offer (r : OutcomeRecord) (s : State) : Progress s (offer r s) := by
  unfold offer
  split
  · exact (progress_raiseFault _ _ _).trans (progress_guardRise _)
  · split
    · exact ((progress_lose s true).trans (progress_raiseFault _ _ _)).trans (progress_guardRise _)
    · exact (progress_modLog s r).trans (progress_guardRise _)

theorem removeTag_tags (tag : W16) (q : List Request) :
    ∀ x ∈ removeTag tag q, ∃ y ∈ q, y.tag = x.tag :=
  fun x hx => ⟨x, (List.mem_filter.1 hx).1, rfl⟩

theorem progress_completeRequest (r : Request) (o : OutcomeCode) (s : State) :
    Progress s (completeRequest r o s) :=
  (progress_modQueue s _ (removeTag_tags _ _)).trans (progress_offer _ _)

theorem progress_takeHead (s : State) : Progress s (takeHead s) := by
  unfold takeHead
  split
  · exact progress_modEngine s _
  · rename_i r rest hq
    refine (progress_modQueue s _ ?_).trans (progress_modEngine _ _)
    intro x hx
    simp only [List.mem_cons] at hx
    rcases hx with rfl | hx
    · exact ⟨r, by simp [hq], rfl⟩
    · exact ⟨x, by simp [hq, hx], rfl⟩

theorem progress_enterIntent (s : State) : Progress s (enterIntent s) := by
  unfold enterIntent
  refine Progress.trans ?_ (progress_announce _)
  refine Progress.trans ?_ (progress_headAt _ _)
  exact (progress_modBuilder s _).trans (progress_modEngine _ _)

theorem progress_evaluateN (n : Nat) (s : State) : Progress s (evaluateN n s) := by
  induction n generalizing s with
  | zero => exact Progress.refl s
  | succ n ih =>
    unfold evaluateN
    split
    · split
      · exact Progress.refl s
      · exact ((progress_completeRequest _ _ s).trans (progress_takeHead _)).trans (ih _)
      · exact progress_enterIntent s
    · exact Progress.refl s

theorem progress_evaluate (s : State) : Progress s (evaluate s) := progress_evaluateN _ s

theorem progress_takeNext (s : State) : Progress s (takeNext s) :=
  (progress_takeHead s).trans (progress_evaluate _)

theorem progress_yieldIntent (s : State) : Progress s (yieldIntent s) := by
  unfold yieldIntent
  have h := ((progress_modQueue s
      (modFront fun r => { r with position := .waiting, yields := r.yields + 1 })
      (modFront_tags (f := fun r => { r with position := .waiting, yields := r.yields + 1 })
        (fun _ => rfl) _)).trans
    (progress_modEngine _ fun e =>
        { e with
          state := .waiting
          holdOff := none
          expired := false
          echo := false
          yieldPause := some (later s.now s.cfg.holdOff) })).trans (progress_announce _)
  dsimp only
  split
  · exact h
  · split
    · exact (h.trans (progress_completeRequest _ _ _)).trans (progress_takeNext _)
    · exact h

theorem progress_enterGranted (s : State) : Progress s (enterGranted s) := by
  unfold enterGranted
  split
  · exact Progress.refl s
  · rename_i r rest hq
    refine Progress.trans ?_ (progress_announce _)
    refine Progress.trans ?_ (progress_modEngine _ _)
    refine (progress_modQueue s _ ?_).trans (progress_modBuilder _ _)
    intro x hx
    simp only [List.mem_cons] at hx
    rcases hx with rfl | hx
    · exact ⟨r, by simp [hq], by cases r with | mk _ _ job _ _ _ _ => cases job <;> rfl⟩
    · exact ⟨x, by simp [hq, hx], rfl⟩

theorem progress_commitTest (s : State) : Progress s (commitTest s) := by
  unfold commitTest
  split
  · exact (progress_withdraw s).trans (progress_evaluate _)
  · split
    · exact (progress_withdraw s).trans (progress_evaluate _)
    · split
      · exact progress_yieldIntent s
      · exact progress_enterGranted s

theorem progress_evalPoint (atIntake : Bool) (s : State) : Progress s (evalPoint atIntake s) := by
  unfold evalPoint intentTests
  split
  · exact progress_evaluate s
  · split_ifs
    · exact (progress_withdraw s).trans (progress_evaluate _)
    · exact (progress_withdraw s).trans (progress_evaluate _)
    · exact progress_yieldIntent s
    · exact progress_commitTest s
    · exact Progress.refl s
  all_goals exact Progress.refl s

/-! ### The evaluation point -/

theorem withoutTag_tags (tag : W16) (q : List Request) :
    ∀ x ∈ withoutTag tag q, x.tag ≠ tag := fun x hx => by
  simpa using (List.mem_filter.1 hx).2

/-- What comes after a completion keeps its record and does not bring the request back. -/
theorem progress_after_completion {s t : State} {r : Request} {o : OutcomeCode} (h : LogHasRoom s)
    (hp : Progress (completeRequest r o s) t) :
    (s.logWith (completionRecord s r o)).records <+: t.log.records ∧
      ∀ x ∈ t.queue, x.tag ≠ r.tag := by
  rw [completeRequest_of_room h] at hp
  refine ⟨hp.log, fun x hx => ?_⟩
  obtain ⟨y, hy, e⟩ := hp.tags x hx
  rw [← e]
  exact withoutTag_tags _ _ y hy

theorem withoutTag_single (r : Request) : withoutTag r.tag [r] = [] := by simp [withoutTag]

/-- The evaluation of a head in WAITING, said once (R137, R138). -/
theorem evaluate_headEvaluated {s : State} {r : Request} {rest : List Request}
    (h : s.engine.state = .waiting) (hq : s.queue = r :: rest) :
    HeadEvaluated s (evaluate s) r rest := by
  refine ⟨evaluate_of_stays hq, evaluate_of_passes h hq, fun h1 h2 h3 h4 => ?_⟩
  rw [evaluate_cons h hq, verdict_of_zeroLength h1 h2 h3 h4]
  dsimp only
  have hp := (progress_takeHead (completeRequest r (if r.isSweep then .atLimit else .done) s)).trans
    (progress_evaluateN s.queue.length _)
  obtain ⟨h5, h6⟩ := progress_after_completion h4 hp
  refine ⟨h5, h6, fun hr => ?_⟩
  subst hr
  rw [completeRequest_of_room h4, hq, withoutTag_single]
  simp only [takeHead, State.modEngine, List.length_singleton, evaluateN]

theorem withdraw_intentWithdrawn (s : State) : IntentWithdrawn s (withdraw s) :=
  ⟨rfl, rfl, rfl, announce_idle rfl rfl rfl⟩

/-- A lost intent is withdrawn, and the evaluation that follows keeps the head. -/
theorem evaluate_withdraw_of_lost {s : State} {r : Request} {rest : List Request}
    (hq : s.queue = r :: rest) (h : IntentLost s r) : OnlyWithdrawn s (evaluate (withdraw s)) := by
  have hq' : (withdraw s).queue = { r with position := .waiting } :: rest := by
    simp [withdraw, announce, headAt, hq, modFront, Request.at]
  have hstay : HeadStays (withdraw s) { r with position := .waiting } := by
    rcases h with h | ⟨h1, h2⟩
    · exact .inl h
    · exact .inr (.inr (.inr ⟨h2, .inr (.inl h1)⟩))
  rw [evaluate_of_stays hq' hstay]
  exact ⟨withdraw_intentWithdrawn s, rfl⟩

theorem yieldIntent_intentYields {s : State} {r : Request} {rest : List Request}
    (hq : s.queue = r :: rest) : IntentYields s (yieldIntent s) r rest := by
  set y : State := announce <|
    (s.modQueue (modFront fun r => { r with position := .waiting, yields := r.yields + 1 })).modEngine
      fun e =>
        { e with
          state := .waiting
          holdOff := none
          expired := false
          echo := false
          yieldPause := some (later s.now s.cfg.holdOff) } with hy
  have hyq : y.queue = { r with position := .waiting, yields := r.yields + 1 } :: rest := by
    simp [hy, announce, hq, modFront]
  have e : yieldIntent s = if s.cfg.yieldLimit ≤ r.yields + 1 then
      takeNext (completeRequest { r with position := .waiting, yields := r.yields + 1 } .gaveUp y)
      else y := by
    unfold yieldIntent
    simp only [← hy, hyq]
  have hann : AnnouncedIdle s y := announce_idle rfl rfl rfl
  refine ⟨fun h => ?_, fun h hroom => ?_⟩
  · rw [e, if_neg (by omega)]
    refine ⟨hann, ?_⟩
    simp [hy, announce, State.modQueue, State.modEngine, State.modLink, hq, modFront]
  · rw [e, if_pos h]
    have hroom' : LogHasRoom y := hroom
    have hp := progress_takeNext
      (completeRequest { r with position := .waiting, yields := r.yields + 1 } .gaveUp y)
    obtain ⟨h1, h2⟩ := progress_after_completion hroom' hp
    refine ⟨h1, h2, fun hr => ?_⟩
    subst hr
    have et : takeNext (completeRequest { r with position := .waiting, yields := r.yields + 1 }
        .gaveUp y) = { y with
          queue := []
          log := s.logWith (completionRecord s
            { r with position := .waiting, yields := r.yields + 1 } .gaveUp)
          engine := { y.engine with state := .idle, work := .none } } := by
      rw [completeRequest_of_room hroom', hyq, withoutTag_single]
      unfold takeNext
      rw [evaluate_nil rfl]
      rfl
    rw [et]
    exact ⟨hann, rfl⟩

theorem enterGranted_grantEntered {s : State} {r : Request} {rest : List Request}
    (hq : s.queue = r :: rest) : GrantEntered s (enterGranted s) r rest := by
  have hg : ∀ x : Request, x.granted s.now = { Request.modMove (fun m => { m with expiryRuns := false }) x
      with position := .granted, firstGrant := some (x.firstGrant.getD s.now) } := by
    intro x
    cases x with | mk _ _ job _ _ _ _ => cases job <;> rfl
  unfold enterGranted
  simp only [hq, hg]
  refine ⟨?_, rfl⟩
  exact announce_announced rfl rfl (content_grant (g := grantOf r s) rfl (by simp)
    (by simp) rfl)

theorem headQuiet_cons {s : State} {r : Request} {rest : List Request} (hq : s.queue = r :: rest) :
    headQuiet s = quietMet s r := by simp [headQuiet, hq]

theorem budgetSpent_iff {s : State} {r : Request} {rest : List Request}
    (h : s.engine.state = .intent) (hq : s.queue = r :: rest) :
    budgetSpent s = decide (s.cfg.budget ≤ contenders s r) := by
  unfold budgetSpent outrankingCount contenders
  simp only [h, hq]

/-- The commit test, said once (R145). -/
theorem commitTest_commitTested {s : State} {r : Request} {rest : List Request}
    (h : s.engine.state = .intent) (hq : s.queue = r :: rest) :
    CommitTested s (commitTest s) r rest := by
  refine ⟨fun hl => ?_, fun h1 h2 => ⟨fun h3 => ?_, fun h3 => ?_⟩⟩
  · unfold commitTest
    rw [headQuiet_cons hq]
    rcases hl with hl | hl
    · simp only [hl, if_true]
      exact evaluate_withdraw_of_lost hq (.inl hl)
    · simp only [hl.1, Bool.not_false, if_true]
      rw [ite_self]
      exact evaluate_withdraw_of_lost hq (.inr hl)
  · unfold commitTest
    simp only [h1, headQuiet_cons hq, h2, budgetSpent_iff h hq, h3]
    exact yieldIntent_intentYields hq
  · unfold commitTest
    simp only [h1, headQuiet_cons hq, h2, budgetSpent_iff h hq, not_le.2 h3]
    exact enterGranted_grantEntered hq

/-- The tests of an evaluation point in INTENT, said once (R141). -/
theorem intentTests_intentTested (atIntake : Bool) {s : State} {r : Request} {rest : List Request}
    (h : s.engine.state = .intent) (hq : s.queue = r :: rest) :
    IntentTested atIntake s (intentTests atIntake s) r rest := by
  have hb := budgetSpent_iff h hq
  refine ⟨fun hl => ?_, fun h1 h2 => ⟨fun h3 h4 => ?_, fun h3 => ⟨fun h4 h5 => ?_, fun h4 => ?_⟩⟩⟩
  · unfold intentTests
    rw [headQuiet_cons hq]
    rcases hl with hl | hl
    · simp only [hl, if_true]
      exact evaluate_withdraw_of_lost hq (.inl hl)
    · simp only [hl.1, Bool.not_false, if_true]
      rw [ite_self]
      exact evaluate_withdraw_of_lost hq (.inr hl)
  · unfold intentTests
    simp only [h1, headQuiet_cons hq, h2, hb, h3, h4]
    exact yieldIntent_intentYields hq
  all_goals
    have h6 : (atIntake && budgetSpent s) = false := by
      rw [hb]
      cases atIntake <;> simp_all
    unfold intentTests
    simp only [h1, headQuiet_cons hq, h2, h6]
  · simp only [h4, h5]
    exact commitTest_commitTested h hq
  · have h7 : (s.engine.expired && s.engine.echo) = false := by
      by_contra hc
      simp only [Bool.not_eq_false, Bool.and_eq_true] at hc
      exact h4 hc
    simp [h7]

theorem evalPoint_of_other {s : State} (atIntake : Bool) (h1 : s.engine.state ≠ .waiting)
    (h2 : s.engine.state ≠ .intent) : evalPoint atIntake s = s := by
  unfold evalPoint
  split <;> simp_all

theorem evalPoint_of_waiting {s : State} (atIntake : Bool) (h : s.engine.state = .waiting) :
    evalPoint atIntake s = evaluate s := by
  unfold evalPoint
  simp [h]

/-- An evaluation point, said once (R135). -/
theorem evalPoint_evaluationPoint (atIntake : Bool) (s : State) :
    EvaluationPoint atIntake s (evalPoint atIntake s) := by
  refine ⟨evalPoint_of_other atIntake, fun h hq => ?_, fun r rest hq => ⟨fun h => ?_, fun h => ?_⟩⟩
  · rw [evalPoint_of_waiting _ h, evaluate_nil hq]
  · rw [evalPoint_of_waiting _ h]
    exact evaluate_headEvaluated h hq
  · have e : evalPoint atIntake s = intentTests atIntake s := by
      unfold evalPoint
      simp [h]
    rw [e]
    exact intentTests_intentTested atIntake h hq

/-! ### A hold source becoming clear -/

theorem reportClear_sourceCleared {s : State} {src : HoldSource} (hp : s.part ≠ .config)
    (hs : s.holds.get src = true) :
    SourceCleared s (reportClear src s) src ∧
      (∀ o, o ≠ .guard → o ≠ .halt → o ≠ src →
        (reportClear src s).holds.get o = s.holds.get o) ∧
      (src ≠ .guard → src ≠ .halt → (reportClear src s).holds.get src = false) := by
  set s' := latchHold (s.modHolds fun h => h.put src false) with hs'
  have hh : s'.holds = s.holds.put src false := rfl
  have e : reportClear src s = if s'.holds.held then heldEffect s' else evalPoint false s' := by
    unfold reportClear; simp [hp, hs, hs']
  have hprog : Progress s' (reportClear src s) := by
    rw [e]; split
    · exact progress_heldEffect _
    · exact progress_evalPoint _ _
  refine ⟨⟨hprog.latched rfl, (keeps_reportClear src s).port, fun h1 h2 => ?_, fun h1 => ?_⟩, ?_, ?_⟩
  · rw [e, if_pos (show s'.holds.held = true from h1)]
    obtain ⟨b1, b2⟩ := h2 (Holds.held_of_get hs)
    exact heldEffect_of_coherent (s := s') b1 b2
  · rw [e, if_neg (by rw [show s'.holds.held = false from h1]; simp)]
    exact evalPoint_evaluationPoint false s'
  · intro o h1 h2 h3
    rw [hprog.holds o h1 h2, hh]
    exact Holds.get_put_of_ne _ _ h3
  · intro h1 h2
    rw [hprog.holds src h1 h2, hh]
    exact Holds.get_put_same _ _ _

/-! ### The offer of a record at any log count -/

/-- A state with its log, recorder, hold set and latched causes replaced: what an offer writes before
the engine acts. -/
abbrev State.reporting (s : State) (l : OutcomeLog) (f : Recorder) (h : Holds) (a : Attention) :
    State := { s with log := l, recorder := f, holds := h, attention := a }

/-- A held effect reads neither the log, the recorder, the hold set nor the latched causes. -/
theorem heldEffect_reporting (s : State) (l : OutcomeLog) (f : Recorder) (h : Holds)
    (a : Attention) :
    heldEffect (s.reporting l f h a) = (heldEffect s).reporting l f h a := by
  unfold heldEffect
  rcases s with ⟨⟩
  dsimp only [State.reporting]
  split <;> rfl

theorem reportSet_reporting {s : State} (hp : s.part ≠ .config) (src : HoldSource)
    (l : OutcomeLog) (f : Recorder) (h : Holds) (a : Attention) :
    reportSet src (s.reporting l f h a) =
      if h.get src = true then s.reporting l f h a
      else (heldEffect s).reporting l f (h.put src true) { a with holdLatched := true } := by
  unfold reportSet
  simp only [hp, false_or]
  split
  · rfl
  · exact heldEffect_reporting s l f _ _

theorem guardRise_reporting {s : State} (hp : s.part ≠ .config) (l : OutcomeLog) (f : Recorder)
    (h : Holds) (a : Attention) :
    guardRise (s.reporting l f h a) =
      if s.cfg.fullPolicy = .hold ∧ 15 ≤ l.records.length ∧ h.guard = false then
        (heldEffect s).reporting l f { h with guard := true } { a with holdLatched := true }
      else s.reporting l f h a := by
  unfold guardRise
  rw [reportSet_reporting hp]
  by_cases h1 : s.cfg.fullPolicy = .hold ∧ 15 ≤ l.records.length
  · rw [if_pos h1]
    cases hg : h.guard <;> simp [h1.1, h1.2, Holds.get, Holds.put, hg]
  · rw [if_neg h1, if_neg (fun hc => h1 ⟨hc.1, hc.2.1⟩)]

theorem raiseFault_reporting {s : State} (hp : s.part ≠ .config) (k : FaultKind)
    (ctx : FaultContext) (l : OutcomeLog) (f : Recorder) (h : Holds) (a : Attention) :
    raiseFault k ctx (s.reporting l f h a) =
      if setsHalt s.cfg k = true ∧ h.halt = false then
        (heldEffect s).reporting l (f.raised s.cfg s.now k ctx) { h with halt := true }
          { a with holdLatched := true }
      else s.reporting l (f.raised s.cfg s.now k ctx) h a := by
  have hr : (s.reporting l f h a).modRecorder (fun f =>
      { status := f.status ||| kindBit k
        first := if f.status = 0 then some ⟨k, s.now, ctx⟩ else f.first }) =
      s.reporting l ⟨f.status ||| kindBit k,
        if f.status = 0 then some ⟨k, s.now, ctx⟩ else f.first⟩ h a := rfl
  unfold raiseFault setsHalt Recorder.raised
  rw [hr]
  dsimp only
  rw [reportSet_reporting hp]
  cases hasKind s.cfg.faultMasks k <;> cases hasKind s.cfg.faultSeverities k <;>
    cases hh : h.halt <;> simp [Holds.get, Holds.put, hh]

/-- The offer of a record at any log count (R176, R178), as one update. -/
theorem offer_eq {s : State} (hp : s.part ≠ .config) (r : OutcomeRecord) :
    offer r s =
      if s.holdsOffered r = s.holds then
        s.reporting (s.log.offered r) (s.recorderOffered r) s.holds s.attention
      else
        (heldEffect s).reporting (s.log.offered r) (s.recorderOffered r) (s.holdsOffered r)
          { s.attention with holdLatched := true } := by
  have hpart : (heldEffect s).part ≠ .config := by rw [(keeps_heldEffect s).part]; exact hp
  have hcfg : (heldEffect s).cfg = s.cfg := (keeps_heldEffect s).cfg
  have hagain : heldEffect (heldEffect s) = heldEffect s :=
    heldEffect_of_coherent (heldEffect_blocks s).1 (heldEffect_blocks s).2
  have e : offer r s = if s.log.drops = true then
      guardRise (raiseFault .outcomeLost (tagContext r.tag)
        (s.reporting (s.log.offered r) s.recorder s.holds s.attention))
      else guardRise (s.reporting (s.log.offered r) s.recorder s.holds s.attention) := by
    unfold offer OutcomeLog.drops OutcomeLog.offered
    by_cases hl : s.log.lost = true
    · simp only [hl, Bool.true_or, if_true]
    · by_cases h16 : 16 ≤ s.log.records.length
      · simp only [hl, h16, decide_true, Bool.or_true, if_true]; rfl
      · rw [if_neg hl, if_neg h16, if_neg (by simp [hl, h16]), if_neg hl, if_neg h16]; rfl
  have hsame : ∀ a b : Bool, ({ s.holds with halt := a, guard := b } = s.holds) ↔
      (a = s.holds.halt ∧ b = s.holds.guard) := fun a b => by
    constructor
    · intro h
      exact ⟨(congrArg Holds.halt h), (congrArg Holds.guard h)⟩
    · rintro ⟨rfl, rfl⟩; rfl
  rw [e, raiseFault_reporting hp]
  unfold State.holdsOffered State.recorderOffered tagContext
  by_cases hg : s.cfg.fullPolicy = .hold ∧ 15 ≤ (s.log.offered r).records.length <;>
    cases s.log.drops <;> cases setsHalt s.cfg .outcomeLost <;>
    cases hh : s.holds.halt <;> cases hgd : s.holds.guard <;>
    simp [guardRise_reporting hp, guardRise_reporting hpart, hcfg, hagain, hg, hh, hgd,
      hsame]

theorem offer_recordOffered {s : State} (hp : s.part ≠ .config) (r : OutcomeRecord) :
    RecordOffered s (offer r s) r := by
  rw [offer_eq hp]
  by_cases h : s.holdsOffered r = s.holds
  · rw [if_pos h]
    refine ⟨?_, fun _ => ⟨rfl, rfl, rfl⟩, fun h' => absurd h h'⟩
    simp only [h, if_true]
  · rw [if_neg h]
    refine ⟨?_, fun h' => absurd h' h, fun _ => heldEffect_takesEffect s⟩
    rw [if_neg h]
    conv_lhs => rw [heldEffect_eq s]

/-! ### The fall of the log count -/

theorem reportGuard_eq {s : State} (h : s.cfg.fullPolicy = .hold) : reportGuard s =
    if 15 ≤ s.log.records.length then reportSet .guard s else reportClear .guard s := by
  unfold reportGuard
  rw [if_pos h]

/-- Step 1 of R179 does nothing at 14 records or more, nor with no deferred completion. -/
theorem completeDeferred_of_none (n : Nat) {s : State}
    (h : 13 < s.log.records.length ∨ ∀ r ∈ s.queue, r.deferred = false) :
    completeDeferred n s = s := by
  cases n with
  | zero => rfl
  | succ n =>
    unfold completeDeferred
    split
    · rfl
    · rename_i hl
      have : firstDeferred s.queue = none := by
        unfold firstDeferred
        rw [List.find?_eq_none]
        intro x hx
        simp [(h.resolve_left hl) x hx]
      rw [this]

/-- Steps 2 and 3 of R179, said once. -/
theorem afterFall_fallServed {s : State} (hp : s.part ≠ .config) (hh : s.cfg.fullPolicy = .hold)
    (h : 13 < s.log.records.length ∨ ∀ r ∈ s.queue, r.deferred = false) :
    FallServed s (afterFall s) := by
  have e : afterFall s = if (reportGuard s).log.records.length ≤ 13 then
      evalPoint false (reportGuard s) else reportGuard s := by
    unfold afterFall
    simp only [hh, completeDeferred_of_none _ h]
  rw [e]
  refine ⟨reportGuard s, fun h1 => ⟨fun h2 => ?_, fun h2 => ?_⟩,
    fun h1 => ⟨fun h2 => ?_, fun h2 => ?_⟩, fun h1 => ?_, fun h1 => ?_⟩
  · rw [reportGuard_eq hh, if_pos h1]
    exact reportSet_sourceSet hp h2
  · rw [reportGuard_eq hh, if_pos h1]
    exact reportSet_of_set h2
  · rw [reportGuard_eq hh, if_neg (by omega)]
    exact (reportClear_sourceCleared (src := .guard) hp h2).1
  · rw [reportGuard_eq hh, if_neg (by omega)]
    exact reportClear_of_clear h2
  · rw [if_pos h1]
    exact evalPoint_evaluationPoint false _
  · rw [if_neg (by omega)]

end Sys2Proof.Machine
end

