-- ==== Sys2Proof/Laws/Wire.lean ====
section
/-! SUPPORT. How long each answer record is (R188 to R190, R195), and what the port does with a taken
command. -/

namespace Sys2Proof.Machine

@[simp] theorem length_beBytes (n v : Nat) : (beBytes n v).length = n := by
  induction n with
  | zero => rfl
  | succ n ih => simp [beBytes, ih]

@[simp] theorem length_byteOf (v : Nat) : (byteOf v).length = 1 := rfl

@[simp] theorem length_flagByte (b : Bool) : (flagByte b).length = 1 := rfl

@[simp] theorem length_signedBytes (n : Nat) (v : Int) : (signedBytes n v).length = n :=
  length_beBytes _ _

@[simp] theorem length_timeBytes (t : Nat) : (timeBytes t).length = 5 := length_beBytes _ _

@[simp] theorem length_optTimeBytes (t : Option Nat) : (optTimeBytes t).length = 6 := by
  cases t <;> simp [optTimeBytes]

@[simp] theorem length_optTagBytes (t : Option W16) : (optTagBytes t).length = 3 := by
  cases t <;> simp [optTagBytes]

@[simp] theorem length_optGrantBytes (g : Option Grant) : (optGrantBytes g).length = 12 := by
  cases g <;>
    simp only [optGrantBytes, List.length_append, length_beBytes, length_byteOf, length_flagByte,
      length_signedBytes]

@[simp] theorem length_optFirstFaultBytes (f : Option FirstFault) :
    (optFirstFaultBytes f).length = 12 := by
  cases f <;>
    simp only [optFirstFaultBytes, List.length_append, length_beBytes, length_byteOf, length_timeBytes]

/-- The configuration record is 61 bytes (R190). -/
@[simp] theorem length_configBytes (c : Config) : (configBytes c).length = 61 := by
  unfold configBytes
  simp only [List.length_append, length_beBytes, length_byteOf, length_signedBytes]

/-- An outcome record is 11 bytes (R189). -/
@[simp] theorem length_outcomeBytes (r : OutcomeRecord) : r.bytes.length = 11 := by
  simp only [OutcomeRecord.bytes, List.length_append, length_beBytes, length_byteOf,
    length_signedBytes]

/-- A neighbour entry is 32 bytes (R70). -/
@[simp] theorem length_neighbourBytes (n : Neighbour) : n.bytes.length = 32 := by
  simp only [Neighbour.bytes, List.length_append, length_beBytes, length_byteOf, length_flagByte,
    length_signedBytes,
    length_timeBytes, length_optTimeBytes]

/-- A window is 22 bytes (R109). -/
@[simp] theorem length_windowBytes (now : Nat) (w : Window) : (w.bytes now).length = 22 := by
  simp only [Window.bytes, List.length_append, length_beBytes, length_byteOf, length_signedBytes,
    length_timeBytes]

/-- The status record is 67 bytes (R195). -/
@[simp] theorem length_statusBytes (s : State) : (statusBytes s).length = 67 := by
  unfold statusBytes
  simp only [List.length_append, length_beBytes, length_byteOf, length_flagByte,
    length_signedBytes,
    length_timeBytes, length_optTagBytes, length_optGrantBytes, length_optFirstFaultBytes]

/-- A port with no command taken and not blocked takes the command. -/
theorem portCommand_taken {s : State} (t : State) (h : s.port.phase = .noTransaction) :
    portCommand s t = .next t := by
  unfold portCommand
  simp [h]

/-- A port whose transaction has carried its command, or that is blocked, takes none. -/
theorem portCommand_ignored {s : State} (t : State) (h : s.port.phase ≠ .noTransaction) :
    portCommand s t = .next s := by
  unfold portCommand
  split <;> simp_all

/-- SDO after the last bit of a taken command: the turnaround, the answer record, then zeros. -/
theorem Port.sdo_taken {p : Port} (h : p.phase = .taken) (k : Nat) :
    p.sdo k = some ((0 :: 0 :: p.answer).getD k 0) := by
  unfold Port.sdo
  simp [h]

/-- A port command always answers a next state. -/
theorem portCommand_next (s t : State) : ∃ u, portCommand s t = .next u := by
  unfold portCommand
  split <;> exact ⟨_, rfl⟩

end Sys2Proof.Machine
end

