-- ==== Sys2Proof/Tests/Slice0.lean ====
section
/-! SUPPORT. The model's own tests: ill-formed terms, the spec's worked values, one step of each command,
and for each statement with hypotheses a state and operands that meet them. -/

namespace Sys2Proof.Tests
open Sys2Proof.Machine

set_option Elab.async false

/-! ### Small states -/

/-- The state that a command answers. -/
def after (c : Instr) (s : State) : State :=
  match exec c s with
  | .next t => t
  | _ => s

/-- A command in the transaction that follows an earlier one. -/
def next (c : Instr) (s : State) : State := after c (after .transactionEnd s)

def answersNext (c : Instr) (s : State) : Bool :=
  match exec c s with
  | .next _ => true
  | _ => false

theorem exec_after {c : Instr} {s : State} (h : answersNext c s = true) :
    exec c s = .next (after c s) := by
  unfold answersNext at h
  unfold after
  split at h <;> simp_all

theorem step_front (c : Instr) (s : State) (h : answersNext c (s.withPending []) = true) :
    step (s.withPending [c]) = .next (after c (s.withPending [])) := exec_after h

/-- A configured part at rest. -/
def rest : State :=
  { State.reset with
    now := 1000
    cfg := { Config.default with station := 37, east := 2400, north := 2050 }
    quietMap := ⟨1000, 1050, List.replicate 32 .clear⟩ }

/-- RUNNING, READY, the wind FRESH, no source set and nothing to do. -/
def ready : State :=
  let s : State := { rest with
    part := .running
    wind := ⟨704, 96, .fresh, some 1000⟩
    link := { Link.reset with trail := ⟨.ready, .listen, .off, .off⟩ } }
  s.modLink fun l => { l with slot := ⟨some (content s), false, true⟩ }

def move (tag : W16) (target : Int) (p : Position) : Request :=
  ⟨tag, .normal, .move ⟨target, none, false, none, false, false⟩, p, some 990, 0, none⟩

def timedMove (tag : W16) (p : Position) : Request :=
  ⟨tag, .normal, .move ⟨100, some 1000, true, some 1000, true, false⟩, p, some 990, 0, none⟩

def sweep (tag : W16) (pacing : Pacing) (deadline : Timer) (p : Position) : Request :=
  ⟨tag, .normal, .sweep ⟨50, 2, pacing, 1, 1, 0, false, false, false, deadline, false⟩, p, some 990, 0,
    some 995⟩

/-- RUNNING with the engine in a state, its timers due now and its grant in place. -/
def busy (e : EngineState) (w : HeadWork) (q : List Request) : State :=
  let g : Grant := match w, q with
    | .request, r :: _ => ⟨.request, r.tag, r.cls, 1, 0, 100, 334⟩
    | _, _ => ⟨.park, 0, .priority, 1, 0, 100, 334⟩
  { ready with
    queue := q
    builder := ⟨1, 1, ready.builder.refs⟩
    engine :=
      { Engine.reset with
        state := e
        work := w
        holdOff := if e = .intent then some 1000 else none
        startTimeout := if e = .granted ∧ w = .request then some 1000 else none
        overrun := if e = .moving then some 1000 else none
        settle := if e = .settling then some 1000 else none
        grant := if e = .granted ∨ e = .moving ∨ e = .settling then some g else none } }

def logOf (n : Nat) : OutcomeLog := ⟨List.replicate n ⟨1, .move, .done, 0, 0, 0, 0⟩, false⟩

def frameOf (station : Nat) (p : Phase) : Frame :=
  ⟨station, p, .normal, 41, 0, 1200, 1600, 0, 200, 0, 667⟩

def hears (f : Frame) : Instr := .frameReceived (.delimited f.bytes)

/-! ### Ill-formed terms are refused -/

theorem test_unknownCode_of_a_command : (Instr.unknownCode 0x40).wellFormed = false := by decide
theorem test_unknownCode_of_none : (Instr.unknownCode 0x46).wellFormed = true := by decide
theorem test_entryExpiry_station_range : (Instr.entryExpiry 0).wellFormed = false ∧
    (Instr.entryExpiry 4096).wellFormed = false ∧ (Instr.entryExpiry 4095).wellFormed = true := by
  decide
theorem test_windowClose_station_range : (Instr.windowClose 0 1).wellFormed = false ∧
    (Instr.windowClose 4096 1).wellFormed = false ∧ (Instr.windowClose 1 0).wellFormed = true := by
  decide
theorem test_request_events_carry_a_tag : (Instr.waiveTime 0).wellFormed = false ∧
    (Instr.expiryTime 0).wellFormed = false ∧ (Instr.paceDeadline 0).wellFormed = false ∧
    (Instr.waiveTime 1).wellFormed = true := by decide

/-! ### Worked values of the spec -/

/-- R16: the check over the nine bytes 31 to 39 hex is 29B1 hex. -/
theorem test_frameCheck_nine_digits :
    frameCheck [0x31, 0x32, 0x33, 0x34, 0x35, 0x36, 0x37, 0x38, 0x39] = 0x29b1 := by decide +kernel

/-- R8: D_move for 200 tenths at 30 hundredths a second is 667 ds. -/
theorem test_moveDuration_rounds_up : moveDuration Config.default 200 = 667 ∧
    moveDuration Config.default (-200) = 667 ∧ moveDuration Config.default 0 = 0 := by decide

/-- R152: D_move 667 with m = 50 gives 1001, with m = 0 gives 667. -/
theorem test_overrunLength : overrunLength Config.default 667 = 1001 ∧
    overrunLength { Config.default with overrunMargin := 0 } 667 = 667 := by decide

/-- R81: the wake speeds of its table. -/
theorem test_wakeSpeed_table : wakeSpeed Config.default 0 = 5 ∧ wakeSpeed Config.default 7 = 5 ∧
    wakeSpeed Config.default 8 = 6 ∧ wakeSpeed Config.default 96 = 72 ∧
    wakeSpeed { Config.default with advection := 128 } 96 = 48 ∧
    wakeSpeed Config.default 400 = 300 ∧
    wakeSpeed { Config.default with advection := 256 } 400 = 400 := by decide

/-- R84: the deflections of its table. -/
theorem test_deflection_table : deflection Config.default 200 1281 = 129 ∧
    deflection Config.default (-200) 1281 = -129 ∧ deflection Config.default 1 1000 = 0 ∧
    deflection Config.default 2 1000 = 1 ∧ deflection Config.default (-2) 1000 = -1 ∧
    deflection { Config.default with gain := 255 } 300 46341 = 54093 := by decide

/-- R75, R76: the table's ends and a value in each quadrant. -/
theorem test_sine_quadrants : sine 0 = 0 ∧ sine 128 = 11585 ∧ sine 256 = 16384 ∧
    sine 512 = 0 ∧ sine 768 = -16384 ∧ cosine 0 = 16384 ∧ cosine 512 = -16384 := by decide +kernel

/-- R103 to R105: the searches on a map whose bins 0 and 3 are BUSY. -/
theorem test_map_searches :
    let bins : List Bin := .busy :: .clear :: .clear :: .busy :: List.replicate 28 .clear
    firstClear bins = 1 ∧ runEnd bins = 1 ∧ nextOpportunity 2 bins = 1 ∧
      nextOpportunity 3 bins = 4 ∧ nextOpportunity 29 bins = 32 := by decide +kernel

/-- R101: a window with equal open and close times makes no bin BUSY, one of 1 ds makes one. -/
theorem test_empty_window_makes_no_bin_busy :
    let w := fun close => ({ station := 8, move := 1, state := .frozen, openTime := 1025
                             closeTime := close, along := 9, across := 0, delay := 9 } : Window)
    deriveBins 1000 50 [w 1025] = List.replicate 32 .clear ∧
      (deriveBins 1000 50 [w 1026]).head? = some .busy ∧
      deriveBins 1025 50 [w 1025] = List.replicate 32 .clear := by decide +kernel

/-- R27: the five draws of its table, station 37. -/
theorem test_jitter_draws :
    let x0 : W16 := BitVec.ofNat 16 (37 * 2 + 1)
    let x1 := jitterNext x0
    let x2 := jitterNext x1
    let x3 := jitterNext x2
    let x4 := jitterNext x3
    [x1, x2, x3, x4, jitterNext x4] = [1280, 57113, 56166, 6903, 47132] ∧
      [jitterYield x1 15, jitterYield x2 10, jitterYield x3 1, jitterYield x4 15,
        jitterYield (jitterNext x4) 10] = [0, 9, 1, 1, 7] := by decide +kernel

/-- R78: projections round toward minus infinity. -/
theorem test_projection_rounds_down :
    [-24577, -8193, -8192, -1, 8191, 8192, 24576].map project = [-2, -1, 0, 0, 0, 1, 2] := by
  decide

/-- The worked case of 05_wake_geometry.md: affecting, s = 1281, c = 43, T = 1779. -/
theorem test_geometry_worked_case :
    wakeGeometry ready.cfg 704 96 (frameOf 8 .moving) = .affecting 1281 43 1779 := by
  decide +kernel

/-- R106: run lengths of its table. -/
theorem test_run_lengths :
    runLength { Config.default with periodCode := 3 } 0 120 = 5 ∧
    runLength { Config.default with periodCode := 3 } 0 200 = 8 ∧
    runLength Config.default 0 200 = 16 ∧ runLength Config.default 250 (-250) = 32 ∧
    runLength { Config.default with yawRate := 200, ownSettle := 0, periodCode := 0 } 0 1 = 1 := by
  decide

/-- The window of the worked case of R94 to R97, frame by frame. -/
theorem test_window_worked_case :
    let heard := fun (t : Nat) (f : Frame) (s : State) =>
      after .intakeCompletion (after .geometryPoint (after (hears f) (s.withNow t)))
    let s1 := heard 9800 { frameOf 8 .committed with timeA := 200 } ready
    let s2 := heard 10000 (frameOf 8 .moving) s1
    let s3 := heard 10675 { frameOf 8 .settling with timeB := 100 } s2
    let s4 := heard 10775 { frameOf 8 .idle with timeB := 0 } s3
    let times := fun s : State => s.windows.map fun w => (w.openTime, w.closeTime)
    times s1 = [(11579, 12746)] ∧ times s2 = [(11779, 12746)] ∧ times s3 = [(11779, 12754)] ∧
      times s4 = [(11779, 12754)] ∧
      (after (.windowClose 8 41) (s4.withNow 12754)).windows = [] := by decide +kernel

/-- R96 with no window held: open = end − D_move + T, and with end − D_move below 0 the begin is 0
(log entry 30). -/
theorem test_settling_begin_not_below_zero :
    let opened := fun t : Nat => (after .intakeCompletion (after .geometryPoint
      (after (hears (frameOf 8 .settling)) (ready.withNow t)))).windows.map Window.openTime
    opened 1000 = [1000 - 667 + 1779] ∧ opened 666 = [1779] := by decide +kernel

/-! ### The queue of commands, reset, configuration, start and stop -/

theorem test_step_runs_the_front : step (ready.withPending [.hold, .release]) =
    .next (after .hold (ready.withPending [.release])) := rfl

theorem test_reset_and_tick : after (.hardwareReset true) ready =
      { State.reset with port := ⟨.blocked, []⟩ } ∧
    (after .localTimeTick ready).now = 1001 ∧
    (after .localTimeTick (ready.withNow (2 ^ 40 - 1))).now = 2 ^ 40 - 1 := by decide +kernel

/-- The offset at START and at an ENDED that is taken, clamped (R6, R7). -/
theorem test_offset_clamped : (after (.start 301) rest).engine.offset = 300 ∧
    (after (.ended 5 0xfed3) (busy .moving .request [move 5 100 .moving])).engine.offset = -300 := by
  decide +kernel

def wire : ConfigWire where
  station := 0
  east := 0xffff
  north := 0
  limit := 9
  yawRate := 201
  advection := 127
  halfWidth := 401
  expansion := 65
  gain := 256
  horizon := 12001
  wakeSettle := 1201
  ownSettle := 0
  radius := 99
  budget := 0
  holdOff := 101
  yieldLimit := 16
  startTimeoutCode := 8
  overrunMargin := 201
  refreshPeriod := 19
  jitter := 11
  expiryMultiple := 9
  listenMultiple := 0
  periodCode := 3
  windExpiry := 601
  endedTolerance := 51
  outcomeThreshold := 17
  fullPolicy := 2
  roomThreshold := 9
  stormSense := 3
  parkOffset := 11
  attentionEnables := 0xff
  faultMasks := 0xffff
  faultSeverities := 0

/-- Every field outside its range is clamped, or keeps the stored value (R190). -/
theorem test_configure_clamps : (after (.configure wire) rest).cfg =
    { station := 37, east := 32767, north := 0, limit := 10, yawRate := 200, advection := 128
      halfWidth := 400, expansion := 64, gain := 255, horizon := 12000, wakeSettle := 1200
      ownSettle := 0, radius := 100, budget := 1, holdOff := 100, yieldLimit := 15
      startTimeoutCode := 3, overrunMargin := 200, refreshPeriod := 20, jitter := 10
      expiryMultiple := 8, listenMultiple := 1, periodCode := 3, windExpiry := 600
      endedTolerance := 50, outcomeThreshold := 16, fullPolicy := .hold, roomThreshold := 8
      stormSense := .falling, parkOffset := 10, attentionEnables := 0x3f, faultMasks := 0x3ff
      faultSeverities := 0 } := by decide +kernel

theorem test_witness_ConfigureStoresRecord : rest.port.phase = .noTransaction ∧ rest.part = .config ∧
    (after (.configure wire) rest).cfg.periodCode ≠ rest.cfg.periodCode ∧ rest.windows = [] ∧
    (after (.configure { wire with periodCode := 2 }) rest).cfg.periodCode =
      rest.cfg.periodCode := by decide +kernel

theorem test_witness_WrongStateChangesNothing : ready.port.phase = .noTransaction ∧
    ready.part ≠ .config ∧ rest.port.phase = .noTransaction ∧ rest.part ≠ .running ∧
    rest.part = .config := by decide

theorem test_witness_PortBoundaries : ready.port.phase = .noTransaction ∧
    (ready.answering [0]).port.phase ≠ .noTransaction ∧
    after .hold (ready.answering [0]) = ready.answering [0] ∧
    [0, 1, 2, 3, 4].map (after (.readNeighbours 0) ready).port.sdo =
      [some 0, some 0, some 0, some 0, some 0] ∧
    [1, 2, 3].map (after (.unknownCode 0xff) ready).port.sdo = [some 0, some 16, some 0] ∧
    ready.port.sdo 0 = none ∧
    ({ ready with port := ⟨.blocked, []⟩ } : State).port.phase = .blocked ∧
    isPortCommand .status = true ∧ after (.unknownCode 0xff) ready = ready.answering [16] ∧
    (after .transactionEnd { ready with port := ⟨.blocked, []⟩ }).port.phase = .noTransaction := by
  decide +kernel

theorem rest_atRest : AtRestInConfig rest := by intro _; decide

theorem test_witness_StartEntersRunning : rest.port.phase = .noTransaction ∧ rest.part = .config ∧
    rest.cfg.station ≠ 0 ∧ State.reset.cfg.station = 0 ∧ State.reset.part = .config ∧
    AtRestInConfig rest ∧
    (after (.start 0) { rest with intake := some ⟨frameOf 8 .idle, 990, none, true⟩ }).intake =
      none :=
  ⟨by decide, by decide, by decide, by decide, by decide, rest_atRest, by decide +kernel⟩

theorem test_witness_StopLetsTheMoveRunOn :
    let s := busy .moving .request [sweep 5 .released none .moving, move 6 9 .queued]
    let p := busy .granted .park [move 6 9 .queued]
    s.port.phase = .noTransaction ∧ s.part = .running ∧ s.engine.state = .moving ∧
    (after .stop s).part = .stopping ∧ (after .stop s).port.answer = [0, 1] ∧
    p.part = .running ∧ p.engine.state = .granted ∧ p.engine.work = .park := by decide +kernel

/-- A READY part with nothing to do is lawful. -/
theorem lawful_ready : EngineLawful ready :=
  ⟨fun h => absurd h (by decide), by constructor <;> decide,
    by refine ⟨?_, ?_, ?_⟩ <;> decide, by decide,
    by decide, (List.forall_mem_nil _ : ∀ x ∈ ready.queue, x.position = .queued), rfl,
    ⟨by decide, by decide, by decide, by decide, by decide, by decide⟩, by decide, by decide,
    by decide⟩

/-- A part with a move committed is lawful. -/
theorem lawful_granted : EngineLawful (busy .granted .request [move 5 100 .granted]) :=
  ⟨fun h => absurd h (by decide), by constructor <;> decide,
    by refine ⟨?_, ?_, ?_⟩ <;> decide, by decide,
    by decide, ⟨rfl, by decide, by decide⟩, ⟨_, rfl, rfl, rfl⟩,
    ⟨by decide, by decide, by decide, by decide, by decide, by decide⟩, by decide, by decide,
    by decide⟩

def down : State :=
  { ready with
    link := { ready.link with trail := ⟨.down, .ready, .listen, .off⟩ }
    holds := { Holds.reset with link := true } }

theorem lawful_down : EngineLawful down :=
  ⟨fun h => absurd h (by decide), by constructor <;> decide,
    by refine ⟨?_, ?_, ?_⟩ <;> decide, by decide,
    by decide, (List.forall_mem_nil _ : ∀ x ∈ down.queue, x.position = .queued), rfl,
    ⟨by decide, by decide, by decide, by decide, by decide, by decide⟩, by decide, by decide,
    by decide⟩

theorem test_witness_StopRequestsTheFinalAnnouncement :
    let s := busy .granted .request [move 5 100 .granted]
    (EngineLawful s ∧ EngineLawful down) ∧ s.part = .running ∧ s.port.phase = .noTransaction ∧
    s.engine.state ≠ .moving ∧ ¬(s.engine.state = .granted ∧ s.engine.work = .park) ∧
    s.holds.parkLatch = false ∧ s.link.final = .none ∧ s.link.trail.current = .ready ∧
    down.part = .running ∧ down.link.trail.current ≠ .ready ∧ down.link.final = .none ∧
    (after .stop s).part = .stopping ∧ (after .stop s).engine.lapsedTag = some 5 ∧
    (after .stop down).part = .config :=
  ⟨⟨lawful_granted, lawful_down⟩, by decide +kernel⟩

/-! ### Wind -/

def stale : State :=
  { ready with
    wind := ⟨704, 96, .stale, none⟩
    holds := { Holds.reset with wind := true } }

theorem test_witness_WindTakesReading : rest.part = .config ∧ ready.port.phase = .noTransaction ∧
    ready.part ≠ .config ∧ ready.holds.wind = false ∧ stale.part ≠ .config ∧
    stale.holds.wind = true ∧
    (after (.wind 1024 401) stale).wind = ⟨0, 400, .fresh, some 1100⟩ ∧
    (after (.wind 1023 400) ready).wind = ⟨1023, 400, .fresh, some 1100⟩ := by decide +kernel

theorem test_witness_WindGoesStale : Reached ready.wind.staleness ready.now ∧
    ready.part ≠ .config ∧ ready.holds.wind = false ∧
    ¬Reached ready.wind.staleness (ready.withNow 999).now ∧
    (after .windStalenessExpiry ready).holds.wind = true := by decide +kernel

/-! ### Requests -/

def eight (p : Position) : List Request :=
  move 1 100 p :: ([2, 3, 4, 5, 6, 7, 8].map fun t => move t 100 .queued)

theorem test_witness_SubmissionsCheckedInOrder :
    let s := busy .moving .request (eight .moving)
    s.port.phase = .noTransaction ∧ s.part = .running ∧ (∃ r ∈ s.queue, r.tag = 8) ∧
    (∀ r ∈ s.queue, r.tag ≠ 9) ∧ 8 ≤ s.queue.length ∧
    (after (.submit 9 1 0 0 0 0 0) s).port.answer = [2] ∧
    (after (.submit 8 1 0 0 0 0 0) s).port.answer = [3] ∧
    (after (.submit 0 2 0 0 0 0 0) s).port.answer = [4] ∧
    (after (.submit 9 2 0 0 0 0 0) s).port.answer = [15] ∧
    (after (.submitSweep 9 0 0 0 0 0 0) s).port.answer = [15] ∧
    (after (.submitSweep 9 0 1 0 2 0 0) s).port.answer = [15] ∧
    (after (.submitSweep 9 0 1 0 1 0 3) s).port.answer = [15] ∧
    (after (.submitSweep 9 0 1 0 0 0 3) s).port.answer = [2] := by decide +kernel

theorem test_witness_SubmissionPlacedBehindWork :
    let s := busy .moving .request ((eight .moving).take 7)
    let c : Instr := .submitSweep 9 1 0xff9b 256 1 9 2
    s.port.phase = .noTransaction ∧ s.part = .running ∧ s.engine.state = .moving ∧
    s.queue.length < 8 ∧ (∀ x ∈ s.queue, x.position ≠ .waiting ∧ x.tag ≠ 9) ∧
    (submissionOf s c).map Request.job = some (.sweep ⟨-100, 255, .paced 10 .endSweep, 0, 255, 0,
      false, false, false, none, false⟩) ∧
    (after c s).queue.map Request.tag = [1, 9, 2, 3, 4, 5, 6, 7] ∧
    (let i := busy .intent .request ((eight .intent).take 7)
    i.part = .running ∧ i.engine.state = .intent ∧ (∀ x ∈ i.queue, x.position ≠ .waiting) ∧
      (after c i).queue.map Request.tag = [1, 9, 2, 3, 4, 5, 6, 7] ∧
      (after c i).engine.state = .intent ∧
      (after c { i with quietMap := ⟨1000, 1050, List.replicate 32 .busy⟩ }).engine.state =
        .waiting) := by decide +kernel

theorem test_witness_SubmissionOnIdleEngine :
    let c : Instr := .submit 9 0 100 1 0 1 0xffff
    let held := { ready with holds := { Holds.reset with soft := true } }
    ready.port.phase = .noTransaction ∧ ready.part = .running ∧ ready.queue = [] ∧
    ready.engine.state = .idle ∧ (submissionOf ready c).isSome = true ∧
    PassesTests ready (timedMove 9 .waiting) ∧ held.holds.held = true ∧ held.queue = [] ∧
    (after c ready).engine.state = .intent ∧ (after c held).engine.state = .waiting ∧
    LogHasRoom ready ∧ requestTarget ready.cfg 0 (move 9 0 .waiting) = ready.engine.offset ∧
    (after (.submit 9 0 0 0 0 0 0) ready).log.records.length = 1 := by decide +kernel

theorem test_witness_SubmissionToWaitingHead :
    let s0 := busy .waiting .request ((eight .waiting).take 7)
    let s := { s0 with holds := { Holds.reset with soft := true } }
    s.port.phase = .noTransaction ∧ s.part = .running ∧ s.queue.length < 8 ∧
    (∀ x ∈ s.queue, x.tag ≠ 9 ∧ x.cls = .normal) ∧ (move 1 100 .waiting).waitStart ≠ none ∧
    s.engine.state = .waiting ∧ s.engine.work = .request ∧ s.holds.held = true ∧
    (after (.submit 9 1 0 0 0 0 0) s).queue.map Request.tag = [9, 1, 2, 3, 4, 5, 6, 7] ∧
    (after (.submit 9 0 0 0 0 0 0) s).queue.map Request.tag = [1, 2, 3, 4, 5, 6, 7, 9] ∧
    (let free := { s0 with engine := { s0.engine with yieldPause := none } }
    let urgent := { free with
      queue := [{ move 5 100 .waiting with cls := .priority }, move 6 100 .queued] }
    free.holds.held = false ∧ free.engine.state = .waiting ∧ free.engine.work = .request ∧
      (after (.submit 9 1 40 0 0 0 0) free).engine.state = .intent ∧
      (after (.submit 9 1 40 0 0 0 0) free).queue.map Request.tag = [9, 1, 2, 3, 4, 5, 6, 7] ∧
      (after (.submit 9 1 40 0 0 0 0) urgent).queue.map Request.tag = [5, 9, 6] ∧
      (after (.submit 9 1 40 0 0 0 0) urgent).queue.map Request.position =
        [.intent, .queued, .queued]) := by decide +kernel

theorem test_witness_ExtendLoadsSlot :
    let s := busy .moving .request [sweep 5 .released none .moving, move 6 9 .queued]
    s.port.phase = .noTransaction ∧ s.part = .running ∧ rest.part ≠ .running ∧
    (∀ r ∈ s.queue, r.tag ≠ 7) ∧ (findTag 5 s.queue).isSome = true ∧
    (after (.extend 7 1) s).port.answer = [5] ∧ (after (.extend 6 1) s).port.answer = [9] ∧
    (after (.extend 5 256) s).port.answer = [0] ∧
    (next (.extend 5 1) (after (.extend 5 256) s)).port.answer = [11] ∧
    (next (.extend 5 0) (after (.extend 5 256) s)).port.answer = [0] := by decide +kernel

def openSweep : Request :=
  ⟨5, .normal, .sweep ⟨50, 0, .released, 1, 0, 0, false, false, false, none, false⟩, .waiting,
    some 990, 0, some 995⟩

theorem test_open_sweep_refuses_extend :
    (after (.extend 5 0) (busy .waiting .request [openSweep])).port.answer = [10] := by
  decide +kernel

theorem test_witness_ConfirmSetsFlag :
    let s := busy .waiting .request [openSweep]
    let confirmed : Request := Request.modSweep (fun w => { w with confirm := true }) openSweep
    s.port.phase = .noTransaction ∧ s.part = .running ∧ ready.queue = [] ∧ openSweep.position ≠ .queued ∧
    (move 5 0 .waiting).isSweep = false ∧ s.engine.state = .waiting ∧
    PassesTests { s with queue := [confirmed] } confirmed ∧
    (after .confirm ready).port.answer = [9] ∧ (after .confirm s).engine.state = .intent := by
  decide +kernel

/-- A RELEASED sweep of no steps that a park sends back waits for a CONFIRM taken after it (R172). -/
theorem test_displaced_sweep_waits :
    let first : Request := Request.modSweep (fun w => { w with stepsDone := 0 }) openSweep
    let s := busy .waiting .request [first]
    let displaced := { s with queue := [first.displacedByPark.at .waiting] }
    first.eligible = true ∧ first.displacedByPark.eligible = false ∧
    (after .yieldPauseExpiry { displaced with
      engine := { displaced.engine with yieldPause := some 1000 } }).engine.state = .waiting ∧
    (after .confirm displaced).engine.state = .intent := by decide +kernel

theorem test_witness_CancelOfQueuedOrMoving :
    let s := busy .moving .request [sweep 5 .released none .moving, move 6 9 .queued]
    let full := { s with log := logOf 14 }
    s.port.phase = .noTransaction ∧ s.part ≠ .config ∧ (∀ r ∈ s.queue, r.tag ≠ 7) ∧
    (findTag 5 s.queue).map Request.position = some .moving ∧
    (findTag 6 s.queue).map Request.position = some .queued ∧ LogHasRoom s ∧
    LogHasRoom { s with log := logOf 13 } ∧ s.cfg.fullPolicy = .hold ∧
    14 ≤ full.log.records.length ∧ (after (.cancel 6) full).port.answer = [12] ∧
    (after (.cancel 5) { s with log := logOf 13 }).port.answer = [0] ∧
    (after (.cancel 5) (busy .moving .request [move 5 100 .moving])).port.answer = [6] := by
  decide +kernel

theorem test_witness_CancelOfHead :
    let w := busy .waiting .request [move 5 100 .waiting]
    let i := busy .intent .request [move 5 100 .intent]
    let g := busy .granted .request [move 5 100 .granted]
    let e := busy .settling .request [sweep 5 .released none .settling, move 6 9 .queued]
    w.port.phase = .noTransaction ∧ w.part ≠ .config ∧ LogHasRoom w ∧ LogHasRoom i ∧ LogHasRoom g ∧
    LogHasRoom e ∧ [w, i, g, e].map (fun s => (findTag 5 s.queue).map Request.position) =
      [some .waiting, some .intent, some .granted, some .settling] ∧
    [w, i, g].map (fun s => (after (.cancel 5) s).engine.state) = [.idle, .idle, .idle] ∧
    (after (.cancel 5) g).engine.lapsedTag = some 5 ∧
    (after (.cancel 5) e).engine.state = .settling := by decide +kernel

theorem test_witness_WaiveTimeReached :
    let r := timedMove 5 .waiting
    let s := busy .waiting .request [r]
    findTag 6 s.queue = none ∧ findTag 5 s.queue = some r ∧ s.queue = [r] ∧
    Reached (some 1000) s.now ∧ ¬Reached (some 1000) (s.withNow 999).now ∧
    s.engine.state = .waiting ∧ s.holds.held = false ∧ s.engine.yieldPause = none ∧
    activeCount s.neighbours < s.cfg.budget ∧ (100 : Int) ≠ s.engine.offset ∧
    (timedMove 5 .queued).position ≠ .waiting ∧ ({ Holds.reset with soft := true }).held = true ∧
    (after (.waiveTime 5) s).engine.state = .intent ∧
    after (.waiveTime 5) (s.withNow 999) = s.withNow 999 := by decide +kernel

theorem test_witness_ExpiryTimeReached :
    let w := busy .waiting .request [timedMove 5 .waiting]
    let i := busy .intent .request [timedMove 5 .intent]
    let g := busy .granted .request [timedMove 5 .granted]
    let q := busy .granted .request [move 6 9 .granted, timedMove 5 .queued]
    let full := { q with log := logOf 14 }
    findTag 7 w.queue = none ∧ Reached (some 1000) w.now ∧ ¬Reached (some 1000) (w.withNow 999).now ∧
    [w, i, g, q].map (fun s => (findTag 5 s.queue).map Request.position) =
      [some .waiting, some .intent, some .granted, some .queued] ∧ LogHasRoom w ∧ LogHasRoom i ∧
    LogHasRoom q ∧ full.cfg.fullPolicy = .hold ∧ 14 ≤ full.log.records.length ∧
    [w, i, q].map (fun s => (after (.expiryTime 5) s).log.records.length) = [1, 1, 1] ∧
    after (.expiryTime 5) g = g ∧
    (after (.expiryTime 5) full).queue.map Request.deferred = [false, true] ∧ i.part ≠ .config ∧
    (after (.expiryTime 5) { i with log := logOf 14 }).holds.guard = true ∧
    (after (.expiryTime 5) { i with log := logOf 16 }).recorder.first =
      some ⟨.outcomeLost, 1000, ⟨none, none, some 5⟩⟩ := by decide +kernel

theorem test_witness_PaceDeadlineJudged :
    let at' := fun p pol => sweep 5 (.paced 10 pol) (some 1000) p
    let s := fun e p pol => busy e .request [at' p pol]
    let q := busy .granted .request [move 6 9 .granted, at' .queued .endSweep]
    findTag 7 q.queue = none ∧ Reached (some 1000) q.now ∧ ¬Reached (some 1000) (q.withNow 999).now ∧
    PassesTests (s .waiting .waiting .repeatStep)
      (sweep 5 (.paced 10 .repeatStep) none .waiting) ∧
    LogHasRoom q ∧ 14 ≤ (logOf 14).records.length ∧ q.cfg.fullPolicy = .hold ∧
    (after (.paceDeadline 5) (s .waiting .waiting .repeatStep)).engine.state = .intent ∧
    (after (.paceDeadline 5) (s .waiting .waiting .repeatStep)).attention.sweepUnderrun = true ∧
    (after (.paceDeadline 5) (s .waiting .waiting .skip)).queue =
      [sweep 5 (.paced 10 .skip) (some 1010) .waiting] ∧
    (after (.paceDeadline 5) (s .waiting .waiting .endSweep)).queue = [] ∧
    (after (.paceDeadline 5) (s .settling .settling .endSweep)).engine.work = .none ∧
    (after (.paceDeadline 5) q).log.records.length = 1 ∧
    (after (.paceDeadline 5) { q with log := logOf 14 }).queue.map Request.deferred =
      [false, true] := by decide +kernel

/-! ### The stagger engine -/

theorem test_witness_WaitingHeadTests :
    let s0 := busy .waiting .request [move 5 100 .waiting]
    let s := { s0 with engine := { s0.engine with yieldPause := some 1000 } }
    let zero := { s with queue := [move 5 0 .waiting] }
    Reached s.engine.yieldPause s.now ∧ ¬Reached s.engine.yieldPause (s.withNow 999).now ∧
    s.engine.state = .waiting ∧ PassesTests s0 (move 5 100 .waiting) ∧ ready.engine.state ≠ .waiting ∧
    ({ Holds.reset with halt := true }).held = true ∧
    (sweep 5 .released none .waiting).eligible = false ∧
    quietMet { s with quietMap := ⟨1000, 1050, List.replicate 32 .busy⟩ }
      (move 5 100 .waiting) = false ∧
    LogHasRoom zero ∧ (14 : Nat) ≤ (logOf 14).records.length ∧
    requestTarget s.cfg s.engine.offset (move 5 0 .waiting) = s.engine.offset ∧
    (after .yieldPauseExpiry s).engine.state = .intent ∧
    (after .yieldPauseExpiry zero).log.records.length = 1 ∧ s.quietMap.bins.length = 32 ∧
    HeadStays { s0 with holds := { Holds.reset with soft := true } } (move 5 100 .waiting) ∧
    runLength s.cfg 0 100 = 9 ∧
    quietMet { s with quietMap := ⟨1000, 1050, List.replicate 9 .clear ++ List.replicate 23 .busy⟩ }
      (move 5 100 .waiting) = true ∧
    quietMet { s with quietMap := ⟨1000, 1050, List.replicate 8 .clear ++ List.replicate 24 .busy⟩ }
      (move 5 100 .waiting) = false ∧
    (after .yieldPauseExpiry { zero with log := logOf 14 }).queue.length = 1 ∧
    (after .yieldPauseExpiry { s with neighbours :=
      [newEntry s.cfg (frameOf 8 .moving) 990, newEntry s.cfg (frameOf 9 .committed) 990] }).engine =
      s0.engine := by decide +kernel

theorem test_witness_BegunStartsMove :
    let s := busy .granted .request [move 5 100 .granted]
    s.port.phase = .noTransaction ∧ s.part ≠ .config ∧ rest.part = .config ∧ s.engine.state = .granted ∧
    s.engine.grant.map Grant.tag = some 5 ∧
    (∀ e ∈ s.link.slot.edition, e.phase ≠ .moving) ∧
    ¬(ready.engine.state = .granted ∧ ready.engine.grant.map Grant.tag = some 5) ∧
    ({ ready.engine with lapsedTag := some 5 }).lapsedTag = some 5 ∧
    ready.engine.lapsedTag ≠ some 5 ∧ (after (.begun 5) s).engine.overrun = some 1501 ∧
    (after (.begun 6) s).port.answer = [7] := by decide +kernel

theorem test_witness_EndedCompletesMove :
    let s := busy .moving .request [move 5 100 .moving]
    let atOnce := { s with cfg := { s.cfg with ownSettle := 0 } }
    s.port.phase = .noTransaction ∧ s.part = .running ∧ rest.part = .config ∧ s.engine.state = .moving ∧
    s.engine.work = .request ∧ s.engine.grant.map Grant.tag = some 5 ∧
    s.holds.parkLatch = false ∧ LogHasRoom s ∧ 0 < s.cfg.ownSettle ∧ atOnce.cfg.ownSettle = 0 ∧
    ¬(ready.engine.state = .moving ∧ ready.engine.grant.map Grant.tag = some 5) ∧
    setsHalt s.cfg .badEnded = false ∧
    (after (.ended 5 110) s).recorder.status = 0 ∧ (after (.ended 5 111) s).recorder.status ≠ 0 ∧
    (after (.ended 5 100) s).engine.settle = some 1100 ∧
    (after (.ended 5 100) atOnce).engine.state = .idle ∧
    (after (.ended 5 100) { atOnce with queue := [move 5 100 .moving, move 6 200 .queued] }).queue =
      [move 6 200 .intent] := by decide +kernel

theorem test_witness_EndedFinishesStop :
    let s := { busy .moving .request [move 5 100 .moving] with part := PartState.stopping }
    let dark := { s with link := down.link }
    s.port.phase = .noTransaction ∧ s.part = .stopping ∧ s.engine.state = .moving ∧
    s.engine.work = .request ∧ s.engine.grant.map Grant.tag = some 5 ∧
    s.queue = [move 5 100 .moving] ∧ s.holds.parkLatch = false ∧ s.link.final = .none ∧
    LogHasRoom s ∧ s.link.trail.current = .ready ∧ dark.link.trail.current ≠ .ready ∧
    (after (.ended 5 100) s).link.final = .running ∧
    (after (.ended 5 100) dark).part = .config ∧
    (let r := Request.modSweep (fun w => { w with cancelPending := true, extension := 3 })
      (sweep 5 .released none .moving)
    let c := { s with queue := [r] }
    r.endsAtStop = true ∧ (move 5 100 .moving).endsAtStop = true ∧ c.queue = [r] ∧
      (after (.ended 5 100) c).queue = [] ∧ (after (.ended 5 100) c).link.final = .running ∧
      (after (.ended 5 100) c).log.records.map (fun x => (x.outcome, x.stepsDone)) =
        [(.cancelled, 2)]) := by decide +kernel

theorem test_witness_EndedStepsSweep :
    let r : Request := ⟨5, .normal, .sweep ⟨100, 2, .paced 10 .skip, 1, 1, 0, true, false, false,
      none, false⟩, .moving, some 990, 3, some 995⟩
    let s := busy .moving .request [r]
    let with' := fun f => { s with queue := [Request.modSweep f r] }
    s.port.phase = .noTransaction ∧ s.part = .running ∧ s.engine.state = .moving ∧
    s.engine.work = .request ∧ s.engine.grant.map Grant.tag = some 5 ∧
    s.holds.parkLatch = false ∧ 0 < s.cfg.ownSettle ∧ LogHasRoom s ∧
    (after (.ended 5 90) s).log.records.map OutcomeRecord.outcome = [.sweepDone] ∧
    (after (.ended 5 90) (with' fun w => { w with extension := 1 })).attention.sweepExtended =
      true ∧
    (after (.ended 5 90) (with' fun w => { w with remaining := 2 })).engine.work = .request ∧
    (after (.ended 5 90) (with' fun w => { w with cancelPending := true })).log.records.map
      OutcomeRecord.outcome = [.cancelled] := by decide +kernel

theorem test_witness_EndedServesPark :
    let latched := { Holds.reset with park := true, parkLatch := true, parkLatchedAt := some 990 }
    let s := { busy .moving .request [move 5 100 .moving] with holds := latched }
    let w := { s with queue := [Request.modSweep (fun w => { w with remaining := 2 })
      (sweep 5 .released none .moving)] }
    let p := { busy .moving .park [] with holds := { latched with parkGrantedAt := some 995 } }
    let here := fun s : State => { s with cfg := { s.cfg with parkOffset := 100 } }
    let stopping := fun light : LinkState => { p with
      part := .stopping, link := { p.link with trail := ⟨light, .listen, .off, .off⟩ } }
    s.port.phase = .noTransaction ∧ s.part = .running ∧ s.engine.state = .moving ∧ LogHasRoom s ∧
    s.engine.grant.map Grant.tag = some 5 ∧ s.engine.work = .request ∧
    s.holds.parkLatch = true ∧ s.holds.park = true ∧ p.engine.work = .park ∧
    p.engine.grant.map Grant.tag = some 0 ∧ p.holds.park = true ∧ 0 < p.cfg.ownSettle ∧
    LogHasRoom p ∧ LogHasRoom { s with log := logOf 1 } ∧
    ((move 5 100 .moving).afterEnded 1000).2 = some .done ∧
    (((sweep 5 .released none .moving).afterEnded 1000).2) = some .sweepDone ∧
    (w.queue.map fun r => (r.afterEnded 1000).2) = [none] ∧
    (after (.ended 5 100) s).engine.work = .park ∧
    (after (.ended 5 100) w).queue.map Request.position = [.queued] ∧
    (after (.ended 5 100) (here s)).log.records.map OutcomeRecord.outcome = [.done, .parked] ∧
    (after (.ended 5 100) (here s)).log.records.map OutcomeRecord.wait = [10, 10] ∧
    (after (.ended 5 100) (here w)).engine.work = .request ∧
    (after (.ended 5 100) (here w)).engine.state = .settling ∧
    withoutTag 5 s.queue = [] ∧
    (after (.ended 5 100) { here s with part := .stopping }).link.final = .running ∧
    (after (.ended 5 100) { here s with part := .stopping }).log.records.map
      OutcomeRecord.outcome = [.done, .parked] ∧
    (let atOnce := { s with cfg := { s.cfg with parkOffset := 100, ownSettle := 0 } }
    (after (.ended 5 100) atOnce).engine.state = .idle) ∧
    (after (.ended 0 100) p).log.records = [⟨0, .park, .parked, 100, 5, 0, 0⟩] ∧
    (after (.ended 0 100) { p with cfg := { p.cfg with ownSettle := 0 } }).engine.state = .idle ∧
    (stopping .ready).link.final = .none ∧
    (after (.ended 0 100) (stopping .ready)).link.final = .running ∧
    (after (.ended 0 100) (stopping .check)).part = .config := by
  decide +kernel

def contest (echo : Bool) (budget : Nat) (yields : Nat) (r : Request) : State :=
  let s := busy .intent .request [{ r with yields := yields }]
  { s with
    engine := { s.engine with echo := echo }
    cfg := { s.cfg with budget := budget }
    neighbours := [newEntry s.cfg (frameOf 8 .moving) 990] }

theorem test_witness_HoldOffExpiryCommits :
    let r := move 5 100 .intent
    Reached (contest true 2 0 r).engine.holdOff 1000 ∧
    ¬Reached (contest true 2 0 r).engine.holdOff 999 ∧
    (contest true 2 0 r).engine.state = .intent ∧ (contest true 2 0 r).queue = [r] ∧
    quietMet (contest true 2 0 r) r = true ∧ LogHasRoom (contest true 1 5 r) ∧
    activeCount (contest true 2 0 r).neighbours +
      outrankingCountOf r.cls 1 37 (contest true 2 0 r).neighbours = 1 ∧
    (after .holdOffExpiry (contest false 2 0 r)).engine.expired = true ∧
    (after .holdOffExpiry (contest true 2 0 r)).engine.state = .granted ∧
    outrankingCountOf .normal 1 37 [newEntry ready.cfg { frameOf 8 .intent with claimAge := 1 } 990,
      newEntry ready.cfg { frameOf 38 .intent with claimAge := 1 } 990,
      newEntry ready.cfg { frameOf 39 .intent with claimAge := 2 } 990,
      newEntry ready.cfg { frameOf 40 .intent with cls := .priority } 990] = 3 ∧
    (after .holdOffExpiry (contest true 1 4 r)).engine.state = .waiting ∧
    (after .holdOffExpiry (contest true 1 5 r)).log.records.map OutcomeRecord.outcome = [.gaveUp] ∧
    (after .holdOffExpiry { contest true 2 0 r with
      holds := { Holds.reset with soft := true } }).engine.state = .waiting ∧
    quietMet { contest true 2 0 r with quietMap := ⟨1000, 1050, List.replicate 32 .busy⟩ } r =
      false := by decide +kernel

theorem test_witness_CommitOnlyWhen :
    let s := contest true 2 0 (move 5 100 .intent)
    exec .holdOffExpiry s = .next (after .holdOffExpiry s) ∧ s.engine.state ≠ .granted ∧
    (after .holdOffExpiry s).engine.state = .granted ∧
    (after .holdOffExpiry s).engine.work = .request :=
  ⟨rfl, by decide +kernel⟩

/-- The grant that a good echo lets be made once the hold-off has run out (R140, R145). -/
theorem test_witness_CommitOnlyWhen_at_the_echo :
    let s0 := contest false 2 0 (move 5 100 .intent)
    let s := { s0 with
      engine := { s0.engine with expired := true, holdOff := none }
      link := { s0.link with
        stage := .echoWait, sent := (frameOf 37 .intent).bytes, sentCurrent := true
        slot := ⟨some (content s0), false, false⟩ } }
    exec (hears (frameOf 37 .intent)) s = .next (after (hears (frameOf 37 .intent)) s) ∧
    s.engine.echo = false ∧ s.engine.state ≠ .granted ∧
    (after (hears (frameOf 37 .intent)) s).engine.state = .granted ∧
    (after (hears (frameOf 37 .idle)) s).engine.state = .intent ∧
    (after (hears (frameOf 8 .intent)) s).engine.state = .intent :=
  ⟨rfl, by decide +kernel⟩

theorem test_witness_StartTimeoutLapsesGrant :
    let s := busy .granted .request [move 5 100 .granted]
    Reached s.engine.startTimeout s.now ∧ ¬Reached s.engine.startTimeout (s.withNow 999).now ∧
    s.engine.state = .granted ∧ s.engine.work = .request ∧ s.queue = [move 5 100 .granted] ∧
    LogHasRoom s ∧ LogHasRoom { s with log := logOf 13 } ∧ setsHalt s.cfg .noStart = false ∧
    (after .startTimeoutExpiry s).engine.lapsedTag = some 5 := by decide +kernel

theorem test_witness_OverrunRaisesFault :
    let s := busy .moving .park []
    Reached s.engine.overrun s.now ∧ ¬Reached s.engine.overrun (s.withNow 999).now ∧
    s.engine.state = .moving ∧ s.engine.grant.map Grant.tag = some 0 ∧ s.part ≠ .config ∧
    (after .overrunExpiry s).recorder.status = 64 := by decide +kernel

theorem test_witness_SettleExpiryTakesNextHead :
    let s := busy .settling .none []
    let q := busy .settling .none [move 5 100 .queued]
    Reached s.engine.settle s.now ∧ ¬Reached s.engine.settle (s.withNow 999).now ∧
    s.engine.state = .settling ∧ s.queue = [] ∧ q.queue = [move 5 100 .queued] ∧
    q.engine.state = .settling ∧
    PassesTests { q with engine := { q.engine with state := .waiting } } (move 5 100 .waiting) ∧
    ({ Holds.reset with soft := true }).held = true ∧
    (after .settleExpiry s).engine.state = .idle ∧
    (after .settleExpiry q).engine.state = .intent := by decide +kernel

/-! ### Holds and the park -/

def soft : State := { ready with holds := { Holds.reset with soft := true } }

theorem test_witness_HoldReleaseResume :
    let halted := { ready with holds := { Holds.reset with halt := true } }
    let fatal := { halted with recorder := ⟨2, some ⟨.duplicateStation, 900, noContext⟩⟩ }
    ready.port.phase = .noTransaction ∧ ready.part ≠ .config ∧ ready.holds.soft = false ∧
    soft.part ≠ .config ∧ soft.holds.soft = true ∧ halted.holds.halt = true ∧
    ready.recorder.status &&& ready.cfg.faultSeverities = 0 ∧
    fatal.recorder.status &&& fatal.cfg.faultSeverities ≠ 0 ∧
    (after .hold ready).holds.soft = true ∧ (after .release soft).holds.soft = false ∧
    (after .resume halted).holds.halt = false ∧ (after .resume fatal).port.answer = [13] := by
  decide +kernel

def stormHeld (line : Bool) : State :=
  { ready with
    holds := { Holds.reset with storm := true, stormLatch := true }
    pins := { ready.pins with storm := line } }

theorem test_witness_ClearHoldStorm :
    (stormHeld true).port.phase = .noTransaction ∧ (stormHeld true).part ≠ .config ∧
    (stormHeld true).link.final = .none ∧ (stormHeld true).cfg.stormSense = .high ∧
    (stormHeld true).pins.storm = true ∧ (stormHeld false).pins.storm = false ∧
    (stormHeld false).holds.stormLatch = true ∧ (stormHeld false).holds.storm = true ∧
    ready.holds.stormLatch = false ∧
    (after (.clearHold 1) (stormHeld false)).port.answer = [15] ∧
    after (.clearHold 0) (stormHeld true) = (stormHeld true).answering [0] ∧
    (after (.clearHold 0) (stormHeld false)).holds.storm = false := by decide +kernel

theorem test_witness_StormLineSetsLatch :
    ready.pins.storm = false ∧ ready.part ≠ .config ∧ ready.link.final = .none ∧
    ready.cfg.stormSense = .high ∧ (stormHeld false).pins.storm ≠ true ∧
    (stormHeld false).holds.storm = true ∧ rest.part = .config ∧
    (after (.stormLineEvent true) ready).holds.stormLatch = true ∧
    (after (.stormLineEvent true) rest).holds.stormLatch = false ∧
    after (.stormLineEvent false) ready = ready := by decide +kernel

def parkAway (s : State) : State := { s with cfg := { s.cfg with parkOffset := 250 } }

theorem test_witness_ParkEdgeServesPark :
    let m := parkAway (busy .moving .request [move 5 100 .moving])
    let i := parkAway (busy .intent .request [move 5 100 .intent])
    let g := parkAway (busy .granted .request [move 5 100 .granted])
    rest.part = .config ∧ ready.part = .running ∧ ready.link.final = .none ∧
    ready.holds.parkLatch = false ∧ ready.holds.park = false ∧ ready.engine.state ≠ .moving ∧
    LogHasRoom ready ∧ m.engine.state = .moving ∧ i.engine.state = .intent ∧
    (after .parkFallingEdge { m with part := .stopping }).holds.parkLatch = true ∧
    (after .parkFallingEdge { parkAway ready with part := .stopping }).engine.work = .park ∧
    (after .parkFallingEdge { ready with part := .stopping }).link.final = .running ∧
    (after .parkFallingEdge { ready with part := .stopping }).log.records.length = 1 ∧
    g.engine.state = .granted ∧ g.engine.work = .request ∧
    (after .parkFallingEdge ready).log.records = [⟨0, .park, .parked, 0, 0, 0, 0⟩] ∧
    (after .parkFallingEdge m).holds.parkLatch = true ∧
    (after .parkFallingEdge i).engine.work = .park ∧
    (after .parkFallingEdge g).engine.lapsedTag = some 5 ∧
    (after .parkFallingEdge (parkAway ready)).engine.grant =
      some ⟨.park, 0, .priority, 1, 0, 250, 834⟩ := by decide +kernel

/-- A PARKED record offered at each level of the log under HOLD, the engine in INTENT: at 15 records GUARD
becomes set and the intent is withdrawn, and a full log drops the record (R176, R178). -/
theorem test_parked_offered_at_every_count :
    let s := fun n => { busy .intent .request [move 5 100 .intent] with log := logOf n }
    let t := fun n => after .parkFallingEdge (s n)
    (s 14).engine.state ≠ .moving ∧ parkTarget (s 14).cfg = (s 14).engine.offset ∧
    (t 13).engine.state = .intent ∧ (t 13).holds.guard = false ∧
    (t 14).log.records.length = 15 ∧ (t 14).holds.guard = true ∧
    (t 14).engine.state = .waiting ∧ (t 15).log.records.length = 16 ∧
    (t 15).recorder.status = 0 ∧ (t 16).log.records.length = 16 ∧ (t 16).log.lost = true ∧
    hasKind (t 16).recorder.status .outcomeLost = true := by decide +kernel

theorem test_witness_GuardAfterStartReports :
    let s := { ready with log := logOf 15 }
    let below := { ready with log := logOf 14 }
    s.part ≠ .config ∧ s.cfg.fullPolicy = .hold ∧ 15 ≤ s.log.records.length ∧
    s.holds.guard = false ∧ below.log.records.length < 15 ∧
    (after .guardAfterStart s).holds.guard = true ∧ after .guardAfterStart below = below := by
  decide +kernel

/-! ### Reports -/

theorem test_witness_StatusReportsAndClears :
    ready.port.phase = .noTransaction ∧ (after .status ready).port.answer.length = 68 ∧
    (next .status (after .hold ready)).attention = ⟨false, false, false⟩ := by decide +kernel

theorem test_witness_TakeOutcomesRemovesOldest :
    let s := { ready with log := logOf 16 }
    let d0 := busy .granted .request [move 6 9 .granted,
      Request.modMove (fun m => { m with expiredPending := true }) (move 5 100 .queued)]
    let d := { d0 with log := logOf 14 }
    s.port.phase = .noTransaction ∧ s.engine.state ≠ .waiting ∧ s.engine.state ≠ .intent ∧
    s.holds.guard = false ∧ d.cfg.fullPolicy = .hold ∧
    (d.log.records.drop 1).length ≤ 13 ∧
    (d.queue.find? Request.deferred).map Request.tag = some 5 ∧
    (∀ r ∈ s.queue, r.deferred = false) ∧
    (after (.takeOutcomes 5) s).log.records.length = 12 ∧
    after (.takeOutcomes 0) s = s.answering [0, 0, 16, 0] ∧
    (after (.takeOutcomes 1) d).queue.map Request.tag = [6] ∧
    (after (.takeOutcomes 1) d).log.records.length = 14 ∧
    (after .clearLost { s with log := ⟨s.log.records, true⟩ }).log.lost = false := by decide +kernel

/-- A take that leaves 14 records clears GUARD, and the head in WAITING is evaluated; one that leaves 15
keeps it; at 13 a zero-length head completes (R178, R179). -/
theorem test_take_clears_guard :
    let w := busy .waiting .request [move 5 100 .waiting]
    let s := fun (n : Nat) (target : Int) => { w with
      queue := [move 5 target .waiting]
      engine := { w.engine with yieldPause := none }
      holds := { Holds.reset with guard := true }
      log := logOf n }
    (s 15 100).port.phase = .noTransaction ∧ (s 15 100).part ≠ .config ∧
    (∀ r ∈ (s 15 100).queue, r.deferred = false) ∧
    (after (.takeOutcomes 1) (s 16 100)).holds.guard = true ∧
    (after (.takeOutcomes 1) (s 15 100)).holds.guard = false ∧
    (after (.takeOutcomes 1) (s 15 100)).engine.state = .intent ∧
    (after (.takeOutcomes 1) (s 15 0)).queue.length = 1 ∧
    (after (.takeOutcomes 2) (s 15 0)).queue = [] ∧
    (after (.takeOutcomes 2) (s 15 0)).log.records.length = 14 := by decide +kernel

def heardOne : State :=
  after .intakeCompletion (after .geometryPoint (after (hears (frameOf 8 .moving)) ready))

theorem test_witness_ReadsReturnTables :
    ready.port.phase = .noTransaction ∧ heardOne.neighbours.length = 1 ∧ heardOne.windows.length = 1 ∧
    (after (.readNeighbours 0) heardOne).port.answer.length = 34 ∧
    (after (.readNeighbours 1) heardOne).port.answer = [0, 1] ∧
    (after (.readWindows 0) heardOne).port.answer.length = 24 ∧
    (after (.readWindows 0) heardOne).port.answer.getLast? = some 1 ∧
    (after (.readWindows 1) heardOne).port.answer = [0, 1] ∧
    (∀ w ∈ heardOne.windows, w.closeTime ≤ 9999) ∧
    (after (.readWindows 0) (heardOne.withNow 9999)).port.answer.getLast? = some 0 := by
  decide +kernel

theorem test_witness_ClearFaultsRemovesKinds :
    let s := { ready with recorder := ⟨0x108, some ⟨.windStale, 900, noContext⟩⟩ }
    s.port.phase = .noTransaction ∧ (after (.clearFaults 8) s).recorder.status = 0x100 ∧
    (after (.clearFaults 8) s).recorder.first.isSome = true ∧
    (after (.clearFaults 0x10b) s).recorder = ⟨0, none⟩ := by decide +kernel

/-! ### The array link -/

def dark (s : State) : State :=
  { s with
    pins := { s.pins with light := false }
    link := { s.link with signalLoss := some 1000 } }

theorem test_witness_LightAndSignalLoss :
    let stopping := dark { ready with
      part := .stopping, link := { ready.link with final := .running, stage := .defer none } }
    ready.pins.light = true ∧ ready.link.trail.current = .ready ∧ rest.link.trail.current = .off ∧
    down.link.trail.current = .down ∧ Reached (dark ready).link.signalLoss ready.now ∧
    ¬Reached ready.link.signalLoss ready.now ∧ (dark ready).pins.light = false ∧
    (dark ready).link.final = .none ∧ stopping.link.final ≠ .none ∧ stopping.part ≠ .config ∧
    (after .lsdDeasserted ready).link.signalLoss = some 1010 ∧
    (after .lsdAsserted (dark ready)).link.signalLoss = none ∧
    (after .lsdAsserted (dark down)).link.trail = ⟨.listen, .down, .ready, .listen⟩ ∧
    (after .signalLossTimerExpiry (dark ready)).holds.link = true ∧
    (after .signalLossTimerExpiry stopping).link.trail = ⟨.off, .down, .ready, .listen⟩ := by
  decide +kernel

def frames (n : Nat) : State :=
  { ready with
    intake := some ⟨frameOf 9 .idle, 990, none, false⟩
    link := { ready.link with buffer := List.replicate n ⟨frameOf 9 .idle, 995⟩ } }

theorem test_witness_FramesSorted :
    let rx : Received := .delimited (frameOf 8 .moving).bytes
    wellFormedFrame .garbled = none ∧ wellFormedFrame rx = some (frameOf 8 .moving) ∧
    ready.pins.light = true ∧ ready.link.trail.current ≠ .off ∧ ready.link.trail.current ≠ .down ∧
    (frameOf 8 .moving).station ≠ ready.cfg.station ∧ ready.intake = none ∧
    ready.link.buffer = [] ∧ (frames 3).link.buffer.length < 4 ∧ (frames 3).intake ≠ none ∧
    4 ≤ (frames 4).link.buffer.length ∧ (frameOf 37 .idle).station = ready.cfg.station ∧
    ready.link.stage ≠ .echoWait ∧ setsHalt ready.cfg .duplicateStation = true ∧
    (after (hears (frameOf 8 .moving)) (frames 3)).link.buffer.length = 4 ∧
    (after (hears (frameOf 8 .moving)) (frames 4)).recorder.status = 4 ∧
    (after (hears (frameOf 37 .idle)) ready).holds.halt = true ∧
    after (hears (frameOf 8 .moving)) rest = rest := by decide +kernel

/-- The transmitter waiting for the echo of its 19 bytes. -/
def listening (k : Nat) (s : State) : State :=
  { s with link := { s.link with
    stage := .echoWait, sent := (frameOf 37 .intent).bytes, sentCurrent := true, collisions := k
    slot := ⟨s.link.slot.edition.map fun e =>
      { e with phase := (phaseOf s.engine.state) }, false, false⟩ } }

theorem test_witness_EchoCheckEndsAttempt :
    let s := listening 6 (busy .intent .request [move 5 100 .intent])
    let replaced := { s with link := { s.link with sentCurrent := false } }
    let good := hears (frameOf 37 .intent)
    s.link.stage = .echoWait ∧ s.link.final = .none ∧ s.link.collisions + 1 < 8 ∧
    wellFormedFrame (.delimited s.link.sent) = some (frameOf 37 .intent) ∧
    (frameOf 37 .idle).bytes ≠ s.link.sent ∧ s.pins.light = true ∧
    s.link.trail.current = .ready ∧ s.engine.state = .intent ∧ s.engine.expired = false ∧
    s.link.slot.edition.map Edition.phase = some .intent ∧ s.link.slot.confirmed = false ∧
    s.holds.held = false ∧ headQuiet s = true ∧
    (after good s).engine.echo = true ∧ (after good s).link.stage = .idle ∧
    (after good replaced).link.slot.pending = true ∧
    (after (hears (frameOf 37 .idle)) s).link.collisions = 7 ∧
    (after .echoDeadline s).link.collisions = 7 ∧
    (after good { s with engine := { s.engine with expired := true } }).engine.state =
      .granted := by decide +kernel

/-- The frame in progress at the request for the final announcement, and the final attempt (R37). -/
theorem test_final_attempt_ends_in_config :
    let s := fun final => { listening 7 ready with
      part := .stopping, link := { (listening 7 ready).link with final := final } }
    (after .echoDeadline (s .awaited)).link.final = .running ∧
    (after .echoDeadline (s .awaited)).link.collisions = 8 ∧
    (after .echoDeadline (s .awaited)).link.trail.current = .ready ∧
    (after .echoDeadline (s .awaited)).recorder = ready.recorder ∧
    (after .echoDeadline (s .running)).part = .config ∧
    (after .echoDeadline (s .running)).link.collisions = 8 ∧
    (after (hears (frameOf 37 .intent)) (s .running)).link.collisions = 0 := by decide +kernel

theorem test_witness_EighthCollisionEntersCheck :
    let s := listening 7 ready
    s.link.stage = .echoWait ∧ s.link.final = .none ∧ s.link.collisions = 7 ∧
    s.link.trail.current = .ready ∧ s.part ≠ .config ∧ s.holds.link = false ∧
    (after .echoDeadline s).link.trail.current = .check ∧
    (after .echoDeadline s).recorder.first =
      some ⟨.echoLoss, 1000, ⟨none, some 0, none⟩⟩ ∧ s.pins.light = true ∧
    wellFormedFrame (.delimited (frameOf 37 .idle).bytes) = some (frameOf 37 .idle) ∧
    (frameOf 37 .idle).bytes ≠ s.link.sent ∧
    (after (hears (frameOf 37 .idle)) s).link.trail.current = .check := by decide +kernel

def at' (g : Stage) : State := { ready with link := { ready.link with stage := g } }

theorem test_witness_TransmitStages :
    let refreshing := { ready with link := { ready.link with refresh := some 1000 } }
    ready.link.slot.edition.isSome = true ∧ Link.reset.slot.edition = none ∧
    Reached refreshing.link.refresh refreshing.now ∧ ¬Reached ready.link.refresh ready.now ∧
    refreshing.link.trail.current = .ready ∧ refreshing.link.stage = .idle ∧
    (after .laneActivity (at' (.defer (some 30)))).link.stage = .defer none ∧
    (after .laneQuiet (at' (.defer none))).link.stage ≠ .defer none ∧
    (after .gapEnd (at' (.defer (some 30)))).link.stage = .send ∧
    (after .gapEnd (at' (.defer (some 30)))).link.sent.length = 19 ∧
    (after .endOfTransmission (at' .send)).link.stage = .echoWait ∧
    (after .backoffEnd (at' (.backoff 250))).link.stage ≠ .backoff 250 ∧
    (after .refreshTimerExpiry refreshing).link.refresh = none := by decide +kernel

theorem test_witness_ListenAndCheckPeriodsEnd :
    let l := { down with link := { down.link with
      trail := ⟨.listen, .down, .ready, .listen⟩, listenTimer := some 1000 } }
    let c := fun heard => { down with link := { down.link with
      trail := ⟨.check, .ready, .listen, .down⟩, checkTimer := some 1000, heardOther := heard } }
    Reached l.link.listenTimer l.now ∧ ¬Reached l.link.listenTimer 999 ∧
    l.link.trail.current = .listen ∧ l.part ≠ .config ∧ l.holds.link = true ∧
    Reached (c true).link.checkTimer 1000 ∧ ¬Reached (c true).link.checkTimer 999 ∧
    (c true).link.trail.current = .check ∧ (c true).holds.link = true ∧
    (after .listenTimerExpiry l).link.trail.current = .ready ∧
    (after .listenTimerExpiry { l with holds := Holds.reset }).link.collisions = 0 ∧
    ready.link.trail.current ≠ .listen ∧ ready.link.trail.current ≠ .check ∧
    (after .checkPeriodExpiry (c true)).holds.link = false ∧
    (after .checkPeriodExpiry (c false)).link.checkTimer = some 1100 := by decide +kernel

/-! ### The intake, the table and the window list -/

def working (f : Frame) (g : Option GeometryResult) : State :=
  { heardOne with intake := some ⟨f, 1000, g, false⟩ }

theorem test_witness_GeometryPointComputes :
    let s := { ready with intake := some ⟨frameOf 8 .moving, 1000, none, false⟩ }
    ready.intake = none ∧ s.intake.isSome = true ∧ (frameOf 8 .moving).phase ≠ .idle ∧
    (frameOf 8 .moving).phase ≠ .intent ∧
    (after .geometryPoint s).intake =
      some ⟨frameOf 8 .moving, 1000, some (.affecting 1281 43 1779), false⟩ ∧
    after .geometryPoint ready = ready ∧ sineTable[128]? = some 11585 ∧
    [sine 128, sine 384, sine 640, sine 896] = [11585, 11585, -11585, -11585] ∧
    cosine 767 = sine 1023 ∧ cosine 768 = sine 0 ∧
    wakeGeometry s.cfg 192 96 (frameOf 8 .moving) = .notAffecting ∧
    wakeGeometry { s.cfg with horizon := 1778 } 704 96 (frameOf 8 .moving) = .notAffecting ∧
    wakeGeometry { s.cfg with horizon := 1779, halfWidth := 20, expansion := 0, gain := 0 } 704 96
      (frameOf 8 .moving) = .notAffecting := by decide +kernel

/-- A table of 48 entries: one in-radius in IDLE, the rest in MOVING. -/
def fullTable (p : Phase) : List Neighbour :=
  newEntry ready.cfg (frameOf 1 p) 990 ::
    (List.range 47).map fun k => newEntry ready.cfg (frameOf (k + 50) .moving) 980

theorem test_witness_IntakeUpdatesTable :
    let w : InWork := ⟨frameOf 9 .idle, 1000, none, false⟩
    let s := { ready with intake := some w }
    let far := { s with intake := some { w with frame := { w.frame with east := 32767 } } }
    let known := working { frameOf 8 .idle with east := 32767 } none
    let full := fun p => { s with neighbours := fullTable p }
    s.intake = some w ∧ w.void = false ∧ (∀ n ∈ s.neighbours, n.station ≠ 9) ∧
    (full .idle).neighbours.length = 48 ∧ hasKind s.cfg.faultMasks .tableFull = false ∧
    (heardOne.neighbours.find? fun n => decide (n.station = 8)).isSome = true ∧
    (after .intakeCompletion s).neighbours.map Neighbour.station = [9] ∧
    (after .intakeCompletion far).neighbours = [] ∧
    (after .intakeCompletion known).neighbours = [] ∧
    (after .intakeCompletion (working (frameOf 8 .idle) none)).neighbours.map Neighbour.phase =
      [.idle] ∧
    (after .intakeCompletion (full .idle)).neighbours.head?.map Neighbour.station = some 9 ∧
    (after .intakeCompletion (full .moving)).recorder.status = 8 := by decide +kernel

theorem test_witness_IntakeUpdatesWindows :
    let hit : GeometryResult := .affecting 1281 43 1779
    let list := (List.range 32).map fun k =>
      ({ station := 50, move := BitVec.ofNat 8 k, state := .live, openTime := 3000 + k,
         closeTime := 4000, along := 9, across := 0, delay := 9 } : Window)
    let full := fun open' => { working (frameOf 9 .moving)
      (some (.affecting 1281 43 open')) with windows := list }
    heardOne.windows.map Window.state = [.live] ∧ list.length = 32 ∧
    (working (frameOf 8 .moving) (some hit)).intake.isSome = true ∧
    hasKind ready.cfg.faultMasks .windowFull = false ∧
    (after .intakeCompletion (working (frameOf 8 .moving) (some .notAffecting))).windows = [] ∧
    (after .intakeCompletion (working (frameOf 8 .settling) (some hit))).windows.map Window.state =
      [.frozen] ∧
    (after .intakeCompletion (working { frameOf 8 .committed with move := 42 } (some hit))).windows.map
      Window.state = [.frozen, .provisional] ∧
    (after .intakeCompletion (full 1500)).recorder.first =
      some ⟨.windowFull, 1000, ⟨some 50, some 31, none⟩⟩ ∧
    (after .intakeCompletion (full 2031)).recorder.first =
      some ⟨.windowFull, 1000, ⟨some 9, some 41, none⟩⟩ := by decide +kernel

/-- An own intent meets an intake completion: yield at the budget, withdrawal when the map turns BUSY
(R141). -/
theorem test_intent_at_intake_completion :
    let s := contest false 1 0 (move 5 100 .intent)
    let heard := fun g => { s with intake := some ⟨frameOf 8 .moving, 1000, some g, false⟩ }
    s.neighbours.length < 48 ∧ s.windows.length < 32 ∧ s.engine.state = .intent ∧
    contenders s (move 5 100 .intent) = 1 ∧
    (after .intakeCompletion (heard .notAffecting)).queue = [{ move 5 100 .waiting with yields := 1 }] ∧
    (after .intakeCompletion (heard .notAffecting)).engine.yieldPause = some 1020 ∧
    (after .intakeCompletion (heard (.affecting 9 0 0))).queue = [move 5 100 .waiting] := by
  decide +kernel

theorem test_witness_TableListAndMapDeadlines :
    let s := heardOne.withNow 4000
    (∀ n ∈ heardOne.neighbours, n.station = 8 → heardOne.now < n.expiry) ∧
    heardOne.engine.state ≠ .waiting ∧ heardOne.engine.state ≠ .intent ∧
    (s.neighbours.find? fun n => decide (n.station = 8)).isSome = true ∧
    (∀ n ∈ s.neighbours, n.expiry ≤ s.now) ∧ (∀ w ∈ s.windows, w.closeTime ≤ s.now) ∧
    (∀ w ∈ heardOne.windows, w.hasKey 8 41 = true ∧ heardOne.now < w.closeTime) ∧
    s.quietMap.boundary ≤ s.now ∧ heardOne.now < heardOne.quietMap.boundary ∧
    (after (.entryExpiry 8) s).neighbours = [] ∧ (after (.windowClose 8 41) s).windows = [] ∧
    (after .binBoundary s).quietMap.base = 1050 ∧ after .binBoundary heardOne = heardOne := by
  decide +kernel

/-- The three deadlines as evaluation points (R135, R141): a head enters INTENT when its budget or its
map comes free, and an intent that has lost the quiet condition is withdrawn. -/
theorem test_deadlines_are_evaluation_points :
    let atWork := fun e p budget => { busy e .request [move 5 100 p] with
      cfg := { ready.cfg with budget := budget }
      neighbours := [newEntry ready.cfg (frameOf 8 .moving) 900] }
    let late := fun s : State => { s with now := 1500, quietMap := ⟨1450, 1500, s.quietMap.bins⟩ }
    let w : Window := ⟨8, 41, .live, 1000, 1500, 9, 0, 9⟩
    let shaded := { late (atWork .waiting .waiting 2) with
      windows := [w], quietMap := ⟨1450, 1500, deriveBins 1450 50 [w]⟩ }
    let coming := { late (atWork .intent .intent 2) with windows := [{ w with closeTime := 2000 }] }
    (late (atWork .waiting .waiting 1)).engine.state = .waiting ∧
    (after (.entryExpiry 8) (late (atWork .waiting .waiting 1))).engine.state = .intent ∧
    (after (.windowClose 8 41) shaded).engine.state = .intent ∧
    coming.part ≠ .config ∧ (after .binBoundary coming).engine.state = .waiting ∧
    (after .binBoundary (late (atWork .intent .intent 2))).engine.state = .intent := by
  decide +kernel

/-! ### Encodings and invariants -/

theorem test_witness_CommandRecordsReadBack : (Instr.unknownCode 0xff).wellFormed = true ∧
    encodeRecord (.unknownCode 0xff) = some [0xff] ∧
    encodeRecord (.submit 1 1 0xffff 0 0 1 5) =
      some [0x10, 0, 1, 1, 0xff, 0xff, 0, 0, 0, 1, 0, 5] ∧
    (encodeRecord (.configure wire)).map List.length = some 62 ∧
    encodeRecord .gapEnd = none ∧
    decodeRecord [0x21, 0, 5, 0, 100] = some (.ended 5 100, []) ∧
    decodeRecord [0x21, 0, 5, 0] = none := by decide +kernel

theorem test_witness_FramesReadBack :
    let f : Frame := ⟨4095, .settling, .priority, 255, 255, 32767, 32767, -300, 300, 65535, 65535⟩
    f.bytes.length = 19 ∧ wellFormedFrame (.delimited f.bytes) = some f := by decide +kernel

theorem test_witness_CapacitiesAndRangesKept :
    let s := heardOne.withPending [.hold]
    step s = .next (after .hold (heardOne.withPending [])) ∧ WithinCapacity s ∧ ConfigInRange s ∧
      OffsetAndTimeInRange s ∧ WindRecordLawful s ∧ LostMeansFull s :=
  ⟨step_front .hold heardOne (by decide +kernel), by constructor <;> decide +kernel, by unfold ConfigInRange; decide +kernel,
    by unfold OffsetAndTimeInRange; decide +kernel, by unfold WindRecordLawful; decide +kernel,
    by unfold LostMeansFull; decide +kernel⟩

theorem test_witness_TablesAndMapKept :
    let s := heardOne.withPending [.hold]
    step s = .next (after .hold (heardOne.withPending [])) ∧ TableOrdered s ∧ WindowsOrdered s ∧
      MapCurrent s :=
  ⟨step_front .hold heardOne (by decide +kernel), by unfold TableOrdered; decide +kernel, by unfold WindowsOrdered; decide +kernel,
    by unfold MapCurrent; decide +kernel⟩

theorem test_witness_EngineLawfulKept :
    let s := (busy .granted .request [move 5 100 .granted]).withPending [.begun 5]
    step s = .next (after (.begun 5) (s.withPending [])) ∧ EngineLawful s :=
  ⟨rfl, lawful_granted⟩

end Sys2Proof.Tests
end

section
/-! SUPPORT. The wind record: what WIND answers, and the reading it takes (R10). -/

namespace Sys2Proof.Machine

/-! ### A hold source reported clear -/

/-- A source's report of itself clear takes no kind out of the fault status. -/
theorem hasKind_status_reportClear (src : HoldSource) (s : State) (k : FaultKind)
    (h : hasKind s.recorder.status k = true) :
    hasKind (reportClear src s).recorder.status k = true := by
  unfold reportClear
  dsimp only
  split
  · exact h
  · split
    · exact (progress_heldEffect _).status k h
    · exact (progress_evalPoint _ _).status k h

/-- After its report a source reads clear, whether it was set or not. GUARD and HALT are left out: a
completion in the evaluation that follows may set them again. -/
theorem get_reportClear_same {s : State} {src : HoldSource} (hpart : s.part ≠ .config)
    (hguard : src ≠ .guard) (hhalt : src ≠ .halt) :
    (reportClear src s).holds.get src = false := by
  cases hset : s.holds.get src with
  | false => rw [reportClear_of_clear hset, hset]
  | true =>
    obtain ⟨-, -, hclear⟩ := reportClear_sourceCleared hpart hset
    exact hclear hguard hhalt

/-! ### WIND -/

/-- In CONFIG a taken WIND is answered WRONG-STATE and changes nothing else. -/
theorem execWind_of_config (direction speed : W16) {s : State}
    (hport : s.port.phase = .noTransaction) (hpart : s.part = .config) :
    execWind direction speed s = .next (s.answering [1]) := by
  unfold execWind
  rw [portCommand_taken _ hport, hpart]
  rfl

/-- Outside CONFIG a taken WIND is answered OK, the record takes the reading, and the WIND source is
reported clear. The answer stands first: the report does not read the port. -/
theorem execWind_of_not_config (direction speed : W16) {s : State}
    (hport : s.port.phase = .noTransaction) (hpart : s.part ≠ .config) :
    execWind direction speed s =
      .next (reportClear .wind (takeWind direction speed (s.answering [0]))) := by
  have hanswer : answerOk (reportClear .wind (takeWind direction speed s)) =
      reportClear .wind (takeWind direction speed (s.answering [0])) :=
    (reportClear_modPort (fun _ => ⟨.taken, [0]⟩) .wind (takeWind direction speed s)).symm
  unfold execWind
  rw [portCommand_taken _ hport, ← hanswer]
  cases hs : s.part with
  | config => exact absurd hs hpart
  | running => rfl
  | stopping => rfl

end Sys2Proof.Machine

section
open Sys2Proof Sys2Proof.Machine

/-- Settles O12: the reading is taken on the answered state, and all else is the report of the WIND
source clear, which keeps the port and the record. -/
theorem windTakesReading : Obligations.WindTakesReading := by
  unfold Obligations.WindTakesReading
  intro direction speed s hport
  refine ⟨execWind_of_config direction speed hport, fun hpart => ?_⟩
  let taken := takeWind direction speed (s.answering [0])
  have hkeeps : Keeps taken (reportClear .wind taken) := keeps_reportClear .wind taken
  have hrecord : { s.answering [0] with wind := (reportClear .wind taken).wind } = taken := by
    rw [hkeeps.wind]; rfl
  refine ⟨reportClear .wind taken, execWind_of_not_config direction speed hport hpart, hkeeps.port,
    get_reportClear_same (src := .wind) hpart nofun nofun, hkeeps.wind,
    hasKind_status_reportClear .wind taken, fun hclear => ?_, fun hset => ?_⟩
  · rw [hrecord]
    exact reportClear_of_clear (src := .wind) hclear
  · rw [hrecord]
    exact (reportClear_sourceCleared (s := taken) (src := .wind) hpart hset).1

end
end

section
/-! SUPPORT. The grant handshake: what BEGUN answers (R151), and the entry to MOVING (R152). -/

namespace Sys2Proof.Machine

/-! ### The entry to MOVING -/

/-- The overrun timer's length as R152 writes it, the ceiling over 100 as a rounded-up quotient. -/
theorem overrunLength_eq (c : Config) (duration : Nat) :
    overrunLength c duration = duration + (duration * c.overrunMargin + 99) / 100 := rfl

/-- The entry to MOVING before its announcement: what it stops, records and starts (R152). -/
def movingEntered (g : Grant) (s : State) : State :=
  { s with
    engine := { s.engine with
      state := .moving
      startTimeout := none
      overrun := some (later s.now (g.duration + (g.duration * s.cfg.overrunMargin + 99) / 100)) }
    builder := { s.builder with
      refs := { s.builder.refs with
        begun := some s.now, expectedEnd := some (later s.now g.duration) } }
    queue := if s.engine.work = .request then
      modFront (fun r => { r with position := .moving }) s.queue else s.queue }

/-- The entry to MOVING is its record followed by the one announcement; only a request at work has a
position to set, the park has none. -/
theorem enterMoving_eq_announce (g : Grant) (s : State) :
    enterMoving g s = announce (movingEntered g s) := by
  unfold enterMoving movingEntered
  rw [overrunLength_eq]
  cases hwork : s.engine.work with
  | request => rfl
  | none => rfl
  | park => rfl

/-- What is announced at the entry to MOVING is the grant's class and offsets (R42, R43). -/
theorem content_movingEntered {g : Grant} {s : State} (hgrant : s.engine.grant = some g) :
    content (movingEntered g s) =
      (movingEntered g s).edition .moving g.cls 0 g.fromOffset g.target :=
  content_grant rfl nofun nofun hgrant

/-! ### BEGUN -/

/-- In CONFIG a taken BEGUN is answered WRONG-STATE and changes nothing else. -/
theorem execBegun_of_config (tag : W16) {s : State} (hport : s.port.phase = .noTransaction)
    (hpart : s.part = .config) : execBegun tag s = .next (s.answering [1]) := by
  unfold execBegun
  rw [portCommand_taken _ hport, hpart]
  rfl

/-- Outside CONFIG a taken BEGUN that does not name the grant in GRANTED is answered STALE-GRANT for
the last lapsed tag, else NO-GRANT, and changes nothing else. -/
theorem execBegun_of_no_match {tag : W16} {s : State} (hport : s.port.phase = .noTransaction)
    (hpart : s.part ≠ .config)
    (hno : ¬(s.engine.state = .granted ∧ s.engine.grant.map Grant.tag = some tag)) :
    execBegun tag s = .next (s.answering [if s.engine.lapsedTag = some tag then 8 else 7]) := by
  have hrefused : (if s.engine.lapsedTag = some tag then refuse .staleGrant s
      else refuse .noGrant s) =
      s.answering [if s.engine.lapsedTag = some tag then 8 else 7] := by
    split <;> rfl
  unfold execBegun
  rw [portCommand_taken _ hport, ← hrefused]
  split
  · contradiction
  all_goals
    split
    · next g hstate hgrant =>
      have hother : tag ≠ g.tag := fun htag => hno ⟨hstate, by rw [hgrant, htag]; rfl⟩
      rw [if_neg hother]
    · rfl

/-- Outside CONFIG a taken BEGUN of the grant in GRANTED is answered OK and enters MOVING. The answer
stands first: the entry does not read the port. -/
theorem execBegun_of_match {g : Grant} {s : State} (hport : s.port.phase = .noTransaction)
    (hpart : s.part ≠ .config) (hstate : s.engine.state = .granted)
    (hgrant : s.engine.grant = some g) :
    execBegun g.tag s = .next (announce (movingEntered g (s.answering [0]))) := by
  have hanswer : answerOk (enterMoving g s) = announce (movingEntered g (s.answering [0])) := by
    rw [enterMoving_eq_announce]
    rfl
  unfold execBegun
  rw [portCommand_taken _ hport, hstate, hgrant, ← hanswer]
  cases hs : s.part with
  | config => exact absurd hs hpart
  | running => exact congrArg _ (if_pos rfl)
  | stopping => exact congrArg _ (if_pos rfl)

end Sys2Proof.Machine

section
open Sys2Proof Sys2Proof.Machine

/-- Settles O26: BEGUN is refused by one rule whenever it does not name the grant, and otherwise does
the entry to MOVING, whose record and announcement are read off separately. -/
theorem begunStartsMove : Obligations.BegunStartsMove := by
  unfold Obligations.BegunStartsMove
  intro tag s hport
  refine ⟨execBegun_of_config tag hport, fun hpart hno => ⟨fun hlapsed => ?_, fun hlapsed => ?_⟩, ?_⟩
  · exact (execBegun_of_no_match hport hpart hno).trans (by rw [if_pos hlapsed])
  · exact (execBegun_of_no_match hport hpart hno).trans (by rw [if_neg hlapsed])
  · rintro g hpart hstate hgrant rfl
    have hannounced := announce_announced (s0 := s) (s := movingEntered g (s.answering [0])) rfl rfl
      (content_movingEntered hgrant)
    exact ⟨announce (movingEntered g (s.answering [0])),
      execBegun_of_match hport hpart hstate hgrant, rfl, hannounced⟩

end
end

section
/-! SUPPORT. What the engine's operations contain: no operation adds a request to the queue, and every
one leaves a log that keeps its capacity and, under HOLD, loses records only when full (R175, R176). -/

namespace Sys2Proof.Machine

/-- A log within its capacity, under HOLD with LOST only while it is full (R176, R180). -/
def LogLawful (c : Config) (l : OutcomeLog) : Prop :=
  l.records.length ≤ 16 ∧ (c.fullPolicy = .hold → l.lost = true → 16 ≤ l.records.length)

/-- From `s` to `t` no request joins the queue, and a lawful log stays lawful. -/
structure Contains (s t : State) : Prop where
  cfg : t.cfg = s.cfg
  queue : t.queue.length ≤ s.queue.length
  log : LogLawful s.cfg s.log → LogLawful s.cfg t.log

theorem Contains.refl (s : State) : Contains s s := ⟨rfl, le_rfl, id⟩

theorem Contains.trans {s t u : State} (h : Contains s t) (k : Contains t u) : Contains s u :=
  ⟨k.cfg.trans h.cfg, k.queue.trans h.queue, fun hs => h.cfg ▸ k.log (h.cfg ▸ h.log hs)⟩

/-- A change that lets no request in and leaves the log as it is. -/
theorem Contains.of_log_eq {s t : State} (hc : t.cfg = s.cfg)
    (hq : t.queue.length ≤ s.queue.length) (hl : t.log = s.log) : Contains s t :=
  ⟨hc, hq, fun hs => hl ▸ hs⟩

/-- A write that lets no request in and leaves the log as it is, before what contains both. -/
theorem Contains.of_write {s t u : State} (k : Contains t u) (hc : t.cfg = s.cfg)
    (hq : t.queue.length ≤ s.queue.length) (hl : t.log = s.log) : Contains s u :=
  (Contains.of_log_eq hc hq hl).trans k

@[simp] theorem length_modFront (f : Request → Request) (q : List Request) :
    (modFront f q).length = q.length := by cases q <;> rfl

@[simp] theorem length_modTag (tag : W16) (f : Request → Request) (q : List Request) :
    (modTag tag f q).length = q.length := List.length_map _

theorem length_removeTag_le (tag : W16) (q : List Request) :
    (removeTag tag q).length ≤ q.length := List.length_filter_le _ _

/-! ### Giving up, holding, raising, offering -/

theorem contains_announce (s : State) : Contains s (announce s) := .of_log_eq rfl le_rfl rfl

theorem contains_withdraw (s : State) : Contains s (withdraw s) :=
  .of_log_eq rfl (length_modFront _ _).le rfl

theorem contains_lapse (s : State) : Contains s (lapse s) :=
  .of_log_eq rfl (length_modFront _ _).le rfl

theorem contains_heldEffect (s : State) : Contains s (heldEffect s) := by
  unfold heldEffect
  split
  · exact contains_withdraw s
  · exact contains_lapse s
  · exact Contains.refl s

theorem contains_modHolds (s : State) (f : Holds → Holds) : Contains s (s.modHolds f) :=
  .of_log_eq rfl le_rfl rfl

theorem contains_reportSet (src : HoldSource) (s : State) : Contains s (reportSet src s) := by
  unfold reportSet
  split
  · exact Contains.refl s
  · exact (contains_heldEffect _).of_write rfl le_rfl rfl

theorem contains_raiseFault (k : FaultKind) (ctx : FaultContext) (s : State) :
    Contains s (raiseFault k ctx s) := by
  unfold raiseFault
  split
  · exact Contains.refl s
  · dsimp only
    split
    · exact (contains_reportSet _ _).of_write rfl le_rfl rfl
    · exact .of_log_eq rfl le_rfl rfl

theorem contains_guardRise (s : State) : Contains s (guardRise s) := by
  unfold guardRise
  split
  · exact contains_reportSet _ _
  · exact Contains.refl s

/-- A record joins a log with a free place. -/
theorem contains_join (s : State) (r : OutcomeRecord) (h : s.log.records.length < 16) :
    Contains s (s.modLog fun l => { l with records := l.records ++ [r] }) := by
  refine ⟨rfl, le_rfl, fun ⟨_, hfull⟩ => ⟨?_, fun hhold hlost => ?_⟩⟩
  · simpa using h
  · exact absurd (hfull hhold hlost) h.not_ge

/-- LOST is set where the log is full. -/
theorem contains_lose (s : State) (h : 16 ≤ s.log.records.length) :
    Contains s (s.modLog fun l => { l with lost := true }) :=
  ⟨rfl, le_rfl, fun ⟨hcap, _⟩ => ⟨hcap, fun _ _ => h⟩⟩

theorem contains_offer (r : OutcomeRecord) (s : State) : Contains s (offer r s) := by
  unfold offer
  split
  · exact (contains_raiseFault _ _ s).trans (contains_guardRise _)
  · split
    · next hfull =>
      exact ((contains_lose s hfull).trans (contains_raiseFault _ _ _)).trans (contains_guardRise _)
    · next hroom => exact (contains_join s r (not_le.1 hroom)).trans (contains_guardRise _)

theorem contains_completeRequest (r : Request) (o : OutcomeCode) (s : State) :
    Contains s (completeRequest r o s) :=
  (contains_offer _ _).of_write rfl (length_removeTag_le _ _) rfl

/-! ### The engine -/

theorem contains_takeHead (s : State) : Contains s (takeHead s) := by
  unfold takeHead
  split
  · exact .of_log_eq rfl le_rfl rfl
  · next hq => exact .of_log_eq rfl (by simp [hq]) rfl

theorem contains_enterIntent (s : State) : Contains s (enterIntent s) :=
  .of_log_eq rfl (length_modFront _ _).le rfl

theorem contains_enterGranted (s : State) : Contains s (enterGranted s) := by
  unfold enterGranted
  split
  · exact Contains.refl s
  · next hq => exact .of_log_eq rfl (by simp [hq, announce]) rfl

theorem contains_evaluateN (n : Nat) (s : State) : Contains s (evaluateN n s) := by
  induction n generalizing s with
  | zero => exact Contains.refl s
  | succ n ih =>
    unfold evaluateN
    split
    · split
      · exact Contains.refl s
      · exact ((contains_completeRequest _ _ s).trans (contains_takeHead _)).trans (ih _)
      · exact contains_enterIntent s
    · exact Contains.refl s

theorem contains_evaluate (s : State) : Contains s (evaluate s) := contains_evaluateN _ s

theorem contains_takeNext (s : State) : Contains s (takeNext s) :=
  (contains_takeHead s).trans (contains_evaluate _)

theorem contains_yieldIntent (s : State) : Contains s (yieldIntent s) := by
  unfold yieldIntent
  dsimp only
  split
  · exact .of_log_eq rfl (length_modFront _ _).le rfl
  · split
    · exact ((contains_completeRequest _ _ _).trans (contains_takeNext _)).of_write rfl
        (length_modFront _ _).le rfl
    · exact .of_log_eq rfl (length_modFront _ _).le rfl

theorem contains_commitTest (s : State) : Contains s (commitTest s) := by
  unfold commitTest
  split_ifs
  · exact (contains_withdraw s).trans (contains_evaluate _)
  · exact (contains_withdraw s).trans (contains_evaluate _)
  · exact contains_yieldIntent s
  · exact contains_enterGranted s

theorem contains_intentTests (atIntake : Bool) (s : State) :
    Contains s (intentTests atIntake s) := by
  unfold intentTests
  split_ifs
  · exact (contains_withdraw s).trans (contains_evaluate _)
  · exact (contains_withdraw s).trans (contains_evaluate _)
  · exact contains_yieldIntent s
  · exact contains_commitTest s
  · exact Contains.refl s

theorem contains_evalPoint (atIntake : Bool) (s : State) : Contains s (evalPoint atIntake s) := by
  unfold evalPoint
  split
  · exact contains_evaluate s
  · exact contains_intentTests atIntake s
  all_goals exact Contains.refl s

theorem contains_reportClear (src : HoldSource) (s : State) : Contains s (reportClear src s) := by
  unfold reportClear
  split
  · exact Contains.refl s
  · dsimp only
    split
    · exact (contains_heldEffect _).of_write rfl le_rfl rfl
    · exact (contains_evalPoint _ _).of_write rfl le_rfl rfl

theorem contains_reportGuard (s : State) : Contains s (reportGuard s) := by
  unfold reportGuard
  split_ifs
  · exact contains_reportSet _ _
  · exact contains_reportClear _ _
  · exact Contains.refl s

/-! ### The end of a move and the park -/

theorem contains_enterSettling (s : State) : Contains s (enterSettling s) := by
  unfold enterSettling
  dsimp only
  split
  · exact .of_log_eq rfl (length_modFront _ _).le rfl
  all_goals exact .of_log_eq rfl le_rfl rfl

theorem contains_endSettling (s : State) : Contains s (endSettling s) := by
  unfold endSettling
  refine Contains.trans ?_ (contains_evaluate _)
  refine Contains.trans ?_ (contains_announce _)
  exact (contains_takeHead _).of_write rfl le_rfl rfl

theorem contains_afterEnded (s : State) : Contains s (afterEnded s) := by
  unfold afterEnded
  split_ifs
  · exact .of_log_eq rfl le_rfl rfl
  · exact contains_endSettling s
  · exact contains_enterSettling s

theorem contains_enterGrantedPark (s : State) : Contains s (enterGrantedPark s) := by
  unfold enterGrantedPark
  dsimp only
  split
  · exact .of_log_eq rfl (length_modFront _ _).le rfl
  all_goals exact .of_log_eq rfl le_rfl rfl

theorem contains_clearParkLatch (s : State) : Contains s (clearParkLatch s) :=
  (contains_modHolds s _).trans (contains_reportClear _ _)

theorem contains_parkAtEnded (s : State) : Contains s (parkAtEnded s) := by
  unfold parkAtEnded
  split
  · exact ((contains_offer _ s).trans (contains_clearParkLatch _)).trans (contains_afterEnded _)
  · exact contains_enterGrantedPark s

theorem contains_finishPark (s : State) : Contains s (finishPark s) := by
  unfold finishPark
  refine Contains.trans ?_ (contains_clearParkLatch _)
  exact (contains_offer _ _).trans (.of_log_eq rfl le_rfl rfl)

theorem contains_servePark (s : State) : Contains s (servePark s) := by
  unfold servePark
  split
  · exact contains_offer _ s
  · have h := (contains_modHolds s fun h =>
      { h with parkLatch := true, parkLatchedAt := some s.now }).trans (contains_reportSet .park _)
    dsimp only
    split
    · exact h
    all_goals exact h.trans (contains_enterGrantedPark _)

end Sys2Proof.Machine
end

section
/-! SUPPORT. What a command writes of its own (`Begins`), and what the shared operations that follow it
may still do (`Leaves`): one lemma over all commands, from which the frames and the ranges follow. -/

namespace Sys2Proof.Machine

/-! ### The frame of the shared operations -/

/-- From `s` to `t`: the surroundings and the offset are kept; the tables, the wind record and the map
are kept, or emptied as the part enters CONFIG (R193); no list grows but a lawful log, and the
collision count stays in its range. -/
structure Leaves (s t : State) : Prop where
  pending : t.pending = s.pending
  now : t.now = s.now
  pins : t.pins = s.pins
  port : t.port = s.port
  cfg : t.cfg = s.cfg
  offset : t.engine.offset = s.engine.offset
  stays : s.part = .config → t.part = .config
  neighbours : t.neighbours = s.neighbours ∨ (t.part = .config ∧ t.neighbours = [])
  wind : t.wind = s.wind ∨ (t.part = .config ∧ t.wind = WindRecord.clear)
  windows : (t.windows = s.windows ∧ t.quietMap = s.quietMap) ∨
    (t.part = .config ∧ t.windows = [] ∧
      t.quietMap = { s.quietMap with bins := List.replicate 32 .clear })
  queue : t.queue.length ≤ s.queue.length
  log : LogLawful s.cfg s.log → LogLawful s.cfg t.log
  buffer : t.link.buffer.length ≤ s.link.buffer.length
  collisions : s.link.collisions ≤ 8 → t.link.collisions ≤ 8

/-- What the engine's operations keep and contain is a frame. -/
theorem Leaves.of_keeps {s t : State} (k : Keeps s t) (c : Contains s t) : Leaves s t where
  pending := k.pending
  now := k.now
  pins := k.pins
  port := k.port
  cfg := k.cfg
  offset := k.offset
  stays h := k.part.trans h
  neighbours := .inl k.neighbours
  wind := .inl k.wind
  windows := .inl ⟨k.windows, k.quietMap⟩
  queue := c.queue
  log := c.log
  buffer := by rw [k.buffer]
  collisions h := by rwa [k.collisions]

theorem Leaves.refl (s : State) : Leaves s s := .of_keeps (.refl s) (.refl s)

/-- The one that is emptied stays empty, as nothing but START leaves CONFIG. -/
theorem Leaves.trans {s t u : State} (h : Leaves s t) (k : Leaves t u) : Leaves s u where
  pending := k.pending.trans h.pending
  now := k.now.trans h.now
  pins := k.pins.trans h.pins
  port := k.port.trans h.port
  cfg := k.cfg.trans h.cfg
  offset := k.offset.trans h.offset
  stays hs := k.stays (h.stays hs)
  neighbours := by
    rcases k.neighbours with hk | hk
    · rw [hk]
      exact h.neighbours.imp_right fun ⟨hp, he⟩ => ⟨k.stays hp, he⟩
    · exact .inr hk
  wind := by
    rcases k.wind with hk | hk
    · rw [hk]
      exact h.wind.imp_right fun ⟨hp, he⟩ => ⟨k.stays hp, he⟩
    · exact .inr hk
  windows := by
    rcases k.windows with ⟨hk, hm⟩ | ⟨hp, hk, hm⟩
    · rw [hk, hm]
      exact h.windows.imp_right fun ⟨hp, he⟩ => ⟨k.stays hp, he⟩
    · refine .inr ⟨hp, hk, hm.trans ?_⟩
      rcases h.windows with ⟨_, hm'⟩ | ⟨_, _, hm'⟩ <;> rw [hm']
  queue := k.queue.trans h.queue
  log hs := h.cfg ▸ k.log (h.cfg ▸ h.log hs)
  buffer := k.buffer.trans h.buffer
  collisions hs := k.collisions (h.collisions hs)

/-- A change of the link that lets no frame wait and keeps the collision count in its range. -/
theorem leaves_modLink (s : State) (f : Link → Link)
    (hb : (f s.link).buffer.length ≤ s.link.buffer.length)
    (hc : s.link.collisions ≤ 8 → (f s.link).collisions ≤ 8) : Leaves s (s.modLink f) :=
  { Leaves.refl s with buffer := hb, collisions := hc }

/-- A change of the queue that lets no request in. -/
theorem leaves_modQueue (s : State) (f : List Request → List Request)
    (h : (f s.queue).length ≤ s.queue.length) : Leaves s (s.modQueue f) :=
  { Leaves.refl s with queue := h }

theorem leaves_modEngine (s : State) (f : Engine → Engine)
    (h : (f s.engine).offset = s.engine.offset) : Leaves s (s.modEngine f) :=
  { Leaves.refl s with offset := h }

theorem leaves_modBuilder (s : State) (f : Builder → Builder) : Leaves s (s.modBuilder f) :=
  { Leaves.refl s with }

theorem leaves_modHolds (s : State) (f : Holds → Holds) : Leaves s (s.modHolds f) :=
  { Leaves.refl s with }

theorem leaves_modRecorder (s : State) (f : Recorder → Recorder) : Leaves s (s.modRecorder f) :=
  { Leaves.refl s with }

theorem leaves_modAttention (s : State) (f : Attention → Attention) :
    Leaves s (s.modAttention f) := { Leaves.refl s with }

theorem leaves_withIntake (s : State) (w : Option InWork) : Leaves s (s.withIntake w) :=
  { Leaves.refl s with }

/-! ### The engine's operations -/

theorem leaves_reportSet (src : HoldSource) (s : State) : Leaves s (reportSet src s) :=
  .of_keeps (keeps_reportSet src s) (contains_reportSet src s)

theorem leaves_reportClear (src : HoldSource) (s : State) : Leaves s (reportClear src s) :=
  .of_keeps (keeps_reportClear src s) (contains_reportClear src s)

theorem leaves_raiseFault (k : FaultKind) (ctx : FaultContext) (s : State) :
    Leaves s (raiseFault k ctx s) :=
  .of_keeps (keeps_raiseFault k ctx s) (contains_raiseFault k ctx s)

theorem leaves_evalPoint (atIntake : Bool) (s : State) : Leaves s (evalPoint atIntake s) :=
  .of_keeps (keeps_evalPoint atIntake s) (contains_evalPoint atIntake s)

theorem leaves_evaluate (s : State) : Leaves s (evaluate s) :=
  .of_keeps (keeps_evaluate s) (contains_evaluate s)

theorem leaves_takeHead (s : State) : Leaves s (takeHead s) :=
  .of_keeps (keeps_takeHead s) (contains_takeHead s)

theorem leaves_takeNext (s : State) : Leaves s (takeNext s) :=
  .of_keeps (keeps_takeNext s) (contains_takeNext s)

theorem leaves_completeRequest (r : Request) (o : OutcomeCode) (s : State) :
    Leaves s (completeRequest r o s) :=
  .of_keeps (keeps_completeRequest r o s) (contains_completeRequest r o s)

theorem leaves_withdraw (s : State) : Leaves s (withdraw s) :=
  .of_keeps (keeps_withdraw s) (contains_withdraw s)

theorem leaves_lapse (s : State) : Leaves s (lapse s) :=
  .of_keeps (keeps_lapse s) (contains_lapse s)

theorem leaves_announce (s : State) : Leaves s (announce s) :=
  .of_keeps (keeps_announce s) (contains_announce s)

theorem leaves_guardRise (s : State) : Leaves s (guardRise s) :=
  .of_keeps (keeps_guardRise s) (contains_guardRise s)

theorem leaves_commitTest (s : State) : Leaves s (commitTest s) :=
  .of_keeps (keeps_commitTest s) (contains_commitTest s)

theorem leaves_endSettling (s : State) : Leaves s (endSettling s) :=
  .of_keeps (keeps_endSettling s) (contains_endSettling s)

theorem leaves_servePark (s : State) : Leaves s (servePark s) :=
  .of_keeps (keeps_servePark s) (contains_servePark s)

theorem leaves_headAt (p : Position) (s : State) : Leaves s (headAt p s) :=
  leaves_modQueue s _ (length_modFront _ _).le

/-! ### The entry to CONFIG and the final announcement -/

@[simp] theorem binAt_nil (base period k : Nat) : binAt base period [] k = .clear := rfl

@[simp] theorem deriveBins_nil (base period : Nat) :
    deriveBins base period [] = List.replicate 32 .clear := rfl

theorem leaves_enterConfig (s : State) : Leaves s (enterConfig s) where
  pending := rfl
  now := rfl
  pins := rfl
  port := rfl
  cfg := rfl
  offset := rfl
  stays _ := rfl
  neighbours := .inr ⟨rfl, rfl⟩
  wind := .inr ⟨rfl, rfl⟩
  windows := .inr ⟨rfl, rfl, rfl⟩
  queue := Nat.zero_le _
  log := id
  buffer := Nat.zero_le _
  collisions := id

@[simp] theorem Link.beginAttempt_buffer (lane : Bool) (l : Link) :
    (l.beginAttempt lane).buffer = l.buffer := by
  unfold Link.beginAttempt
  split <;> rfl

@[simp] theorem Link.beginAttempt_collisions (lane : Bool) (l : Link) :
    (l.beginAttempt lane).collisions = l.collisions := by
  unfold Link.beginAttempt
  split <;> rfl

theorem leaves_requestFinal (s : State) : Leaves s (requestFinal s) := by
  unfold requestFinal
  dsimp only
  refine (leaves_modLink s (Link.writeFinal (content s)) le_rfl id).trans ?_
  split
  · split
    all_goals exact leaves_modLink _ _ (by simp [Link.abandon]) (by simp [Link.abandon])
  · exact leaves_enterConfig _

theorem leaves_checkStopWork (s : State) : Leaves s (checkStopWork s) := by
  unfold checkStopWork
  split
  · exact leaves_requestFinal s
  · exact Leaves.refl s

theorem leaves_endFinal (s : State) : Leaves s (endFinal s) := by
  unfold endFinal
  split
  · exact leaves_modLink s _ (by simp [Link.abandon]) (by simp [Link.abandon])
  · exact leaves_enterConfig s
  · exact Leaves.refl s

/-! ### The link's operations -/

theorem leaves_enterReady (s : State) : Leaves s (enterReady s) :=
  (leaves_modLink s _ (by simp) (by simp)).trans (leaves_reportClear _ _)

theorem leaves_enterCheck (s : State) : Leaves s (enterCheck s) :=
  ((leaves_modLink s _ (by simp [Link.abandon]) (by simp [Link.abandon])).trans
    (leaves_reportSet _ _)).trans (leaves_raiseFault _ _ _)

theorem leaves_enterDown (s : State) : Leaves s (enterDown s) :=
  (leaves_modLink s _ (by simp [Link.abandon]) (by simp [Link.abandon])).trans
    (leaves_reportSet _ _)

theorem leaves_confirmation (s : State) : Leaves s (confirmation s) := by
  unfold confirmation
  split
  · exact (leaves_modEngine s _ rfl).trans (leaves_evalPoint _ _)
  · exact Leaves.refl s

theorem leaves_goodEcho (s : State) : Leaves s (goodEcho s) := by
  unfold goodEcho
  refine Leaves.trans (leaves_modLink s (fun l => { l with collisions := 0 }) le_rfl (by simp)) ?_
  dsimp only
  split
  · have hconf : Leaves
        (s.modLink fun l => { l with collisions := 0 }) ((s.modLink fun l =>
          { l with collisions := 0 }).modLink fun l =>
            { l.abandon with slot := { l.slot with confirmed := true } }) :=
      leaves_modLink _ _ (by simp [Link.abandon]) (by simp [Link.abandon])
    split <;> split
    · exact hconf
    · exact hconf.trans (leaves_confirmation _)
    · exact hconf.trans (leaves_endFinal _)
    · exact (hconf.trans (leaves_confirmation _)).trans (leaves_endFinal _)
  · refine Leaves.trans
      (leaves_modLink _ (fun l => { l with slot := { l.slot with pending := true } }) le_rfl id) ?_
    split
    · exact leaves_modLink _ _ (by simp [Link.abandon]) (by simp [Link.abandon])
    · exact leaves_endFinal _

theorem leaves_collision (s : State) : Leaves s (collision s) := by
  unfold collision
  refine Leaves.trans
    (leaves_modLink s (fun l => { l with collisions := min 8 (l.collisions + 1) }) le_rfl
      fun _ => min_le_left _ _) ?_
  dsimp only
  split
  · split
    · exact leaves_enterCheck _
    · exact leaves_modLink _ _ (by simp [Link.enterBackoff, Link.abandon])
        (by simp [Link.enterBackoff, Link.abandon])
  · exact leaves_endFinal _

theorem leaves_takeFrame (s : State) : Leaves s (takeFrame s) := by
  unfold takeFrame
  split
  · next hbuf => exact (leaves_modLink s _ (by simp [hbuf]) id).trans (leaves_withIntake _ _)
  · exact Leaves.refl s

theorem leaves_ownFrame (bytes : List Byte) (s : State) : Leaves s (ownFrame bytes s) := by
  unfold ownFrame
  split
  · split
    · exact leaves_goodEcho s
    · exact leaves_collision s
  all_goals exact leaves_raiseFault _ _ _

/-! ### The end of a move, and the park -/

theorem leaves_enterMoving (g : Grant) (s : State) : Leaves s (enterMoving g s) := by
  unfold enterMoving
  dsimp only
  refine Leaves.trans ?_ (leaves_announce _)
  refine Leaves.trans ?_ (leaves_modEngine _ _ rfl)
  refine Leaves.trans ?_ (leaves_modBuilder _ _)
  split
  · exact leaves_headAt _ s
  all_goals exact Leaves.refl s

theorem leaves_finishStep (s : State) : Leaves s (finishStep s) := by
  unfold finishStep
  dsimp only
  have hgone : Leaves s (s.modEngine fun e => { e with work := .none }) :=
    leaves_modEngine s _ rfl
  split
  · exact hgone
  · next r rest hq =>
    split
    · exact hgone.trans (leaves_completeRequest _ _ _)
    · split_ifs
      · exact hgone.trans (leaves_completeRequest _ _ _)
      · exact (leaves_modQueue s _ (by simp [hq])).trans (leaves_modAttention _ _)
      · exact hgone.trans (leaves_completeRequest _ _ _)
      · exact leaves_modQueue s _ (by simp [hq])

/-- The effects of an ENDED once the offset has been taken. -/
theorem leaves_endMove (achieved : Int) (g : Grant) (s : State) :
    Leaves (s.modEngine fun e => { e with offset := achieved }) (endMove achieved g s) := by
  have hreach : Leaves (s.modEngine fun e => { e with offset := achieved })
      (reachOffset achieved g s) := by
    have hwrites : Leaves (s.modEngine fun e => { e with offset := achieved })
        ((s.modEngine fun e => { e with offset := achieved, overrun := none }).modBuilder fun b =>
          { b with refs := { b.refs with ended := some s.now } }) :=
      (leaves_modEngine _ (fun e => { e with overrun := none }) rfl).trans (leaves_modBuilder _ _)
    unfold reachOffset
    dsimp only
    split
    · exact hwrites.trans (leaves_raiseFault _ _ _)
    · exact hwrites
  unfold endMove
  dsimp only
  refine Leaves.trans (hreach.trans ?_) (leaves_checkStopWork _)
  have hstep := leaves_finishStep (reachOffset achieved g s)
  split
  · exact (Leaves.of_keeps (keeps_finishPark _) (contains_finishPark _)).trans
      (.of_keeps (keeps_afterEnded _) (contains_afterEnded _))
  all_goals
    split
    · exact hstep.trans (.of_keeps (keeps_parkAtEnded _) (contains_parkAtEnded _))
    · exact hstep.trans (.of_keeps (keeps_afterEnded _) (contains_afterEnded _))

/-! ### START and STOP -/

theorem leaves_write (s : State) (lane urgent : Bool) (e : Edition) :
    Leaves s (s.modLink (Link.write lane urgent e)) := by
  obtain ⟨_, _, hbuffer, hcollisions, _⟩ := s.link.write_keeps lane urgent e
  exact leaves_modLink _ _ (by rw [hbuffer]) (by rw [hcollisions]; exact id)

/-- What START writes after it has made the part RUNNING and taken the offset. -/
theorem leaves_startPart (offset : Int) (s : State) :
    Leaves ((s.withPart .running).modEngine fun e => { e with offset := clampOffset offset })
      (startPart offset s) := by
  have hlink : ∀ u : State, Leaves u (u.modLink (Link.start s.cfg s.now s.pins.light)) := fun u =>
    leaves_modLink u _ (Nat.zero_le _) fun _ => Nat.zero_le _
  have hstorm : ∀ u : State, Leaves u (if stormActive s then
      reportSet .storm (u.modHolds fun h => { h with stormLatch := true }) else u) := by
    intro u
    split
    · exact (leaves_modHolds u _).trans (leaves_reportSet _ _)
    · exact Leaves.refl u
  unfold startPart
  refine Leaves.trans ?_ (hstorm _)
  refine Leaves.trans ?_ (leaves_reportSet _ _)
  refine Leaves.trans ?_ (leaves_reportSet _ _)
  refine Leaves.trans ?_ (leaves_write _ _ _ _)
  refine Leaves.trans ?_ (leaves_modBuilder _ _)
  refine Leaves.trans ?_ (hlink _)
  exact leaves_withIntake _ none

theorem length_keptAtStop_le (q : List Request) : (keptAtStop q).length ≤ q.length := by
  unfold keptAtStop
  rw [List.length_map]
  exact List.length_filter_le _ _

theorem leaves_stopEngine (s : State) : Leaves s (stopEngine s) := by
  unfold stopEngine
  dsimp only
  set s1 : State := match s.engine.state, s.engine.work with
    | .intent, _ => withdraw s
    | .granted, .request => lapse s
    | _, _ => s with hs1
  have h1 : Leaves s s1 ∧ s1.queue.length = s.queue.length := by
    rw [hs1]
    split
    · exact ⟨leaves_withdraw s, length_modFront _ _⟩
    · exact ⟨leaves_lapse s, length_modFront _ _⟩
    · exact ⟨Leaves.refl s, rfl⟩
  have h2 : Leaves s ((s1.modQueue fun _ => keptAtStop s.queue).modEngine fun e =>
      { e with yieldPause := none }) :=
    (h1.1.trans (leaves_modQueue s1 _ ((length_keptAtStop_le s.queue).trans h1.2.ge))).trans
      (leaves_modEngine _ _ rfl)
  split
  · exact h2
  · exact h2
  · exact (h2.trans (leaves_modEngine _ _ rfl)).trans (leaves_announce _)
  all_goals exact h2.trans (leaves_modEngine _ _ rfl)

end Sys2Proof.Machine
end

section
/-! SUPPORT. Every command answers a next state: what it writes of its own, then what the shared
operations leave, then its answer. -/

namespace Sys2Proof.Machine

/-! ### What a command writes of its own -/

/-- The state `u` that a command's own writes make of `s`, before the shared operations. Where a
condition of the command does not hold, nothing is written. -/
def Begins (c : Instr) (s u : State) : Prop :=
  match c with
  | .hardwareReset selLow => u = { State.reset with
      pending := s.pending
      pins := s.pins
      port := ⟨if selLow then .blocked else .noTransaction, []⟩ }
  | .localTimeTick => u = s.withNow (min (s.now + 1) timeMax)
  | .configure r => u = s ∨ (s.part = .config ∧ u = applyConfig (storeConfig r s.cfg) s)
  | .start offset => u = s ∨ (s.part = .config ∧
      u = (s.withPart .running).modEngine fun e => { e with offset := clampOffset offset.toInt })
  | .wind direction speed => u = s ∨ u = takeWind direction speed s
  | .submit _ _ _ _ _ _ _ | .submitSweep _ _ _ _ _ _ _ =>
      u = s ∨ (s.queue.length < 8 ∧ ∃ r, u = s.modQueue (placeRequest r))
  | .ended tag achieved => u = s ∨ (s.engine.state = .moving ∧
      s.engine.grant.map Grant.tag = some tag ∧
      u = s.modEngine fun e => { e with offset := clampOffset achieved.toInt })
  | .takeOutcomes n => u = s ∨ u = takeRecords (takeCount n s) s
  | .clearLost => u = s ∨ u = s.modLog fun l => { l with lost := false }
  | .stormLineEvent high => u = s.modPins fun p => { p with storm := high }
  | .lsdDeasserted => u = s.modPins fun p => { p with light := false }
  | .lsdAsserted => u = s.modPins fun p => { p with light := true }
  | .laneActivity => u = s.modPins fun p => { p with laneActive := true }
  | .laneQuiet => u = s.modPins fun p => { p with laneActive := false }
  | .frameReceived _ => u = s ∨ (s.link.buffer.length < 4 ∧
      ∃ a, u = s.modLink fun l => { l with buffer := l.buffer ++ [a] })
  | .intakeCompletion => u = s ∨ ∃ f arrival g,
      u = windowStep f arrival g (tableStep f arrival g (s.withIntake none))
  | .entryExpiry station => u = s ∨ u = s.modNeighbours (removeNeighbour station)
  | .windowClose station move => u = s ∨ u = rederive (s.modWindows (removeWindow station move))
  | .binBoundary => u = s ∨ ∃ base boundary,
      u = rederive (s.modMap fun m => { m with base := base, boundary := boundary })
  | .windStalenessExpiry => u = s ∨
      u = s.modWind fun w => { w with condition := .stale, staleness := none }
  | _ => u = s

/-- A command's effect `t` on `s`: its own writes, then the shared operations. -/
def Takes (c : Instr) (s t : State) : Prop := ∃ u, Begins c s u ∧ Leaves u t

/-- A port command that writes nothing of its own when it is not accepted. -/
theorem begins_refl_of_port {c : Instr} (h : isPortCommand c = true) (s : State) :
    Begins c s s := by
  cases c <;> first | rfl | exact .inl rfl | contradiction

theorem takes_refl_of_port {c : Instr} (h : isPortCommand c = true) (s : State) : Takes c s s :=
  ⟨s, begins_refl_of_port h s, Leaves.refl s⟩

/-! ### Answers -/

/-- The answer of a command apart, its effect is `Takes`. -/
def Answers (c : Instr) (s w : State) : Prop := ∃ v p, w = { v with port := p } ∧ Takes c s v

theorem answers_reply {c : Instr} {s v : State} (a : Answer) (bytes : List Byte)
    (h : Takes c s v) : Answers c s (reply a bytes v) := ⟨v, _, rfl, h⟩

theorem answers_refuse {c : Instr} (hc : isPortCommand c = true) (a : Answer) (s : State) :
    Answers c s (refuse a s) := answers_reply a [] (takes_refl_of_port hc s)

theorem answers_ok {c : Instr} {s u v : State} (hu : Begins c s u) (h : Leaves u v) :
    Answers c s (answerOk v) := answers_reply .ok [] ⟨u, hu, h⟩

/-- Whatever the port's phase, a port command's effect is the one it answers with. -/
theorem answers_portCommand {c : Instr} {s w : State} (hc : isPortCommand c = true)
    (h : Answers c s w) :
    ∃ t, portCommand s w = .next t ∧ Answers c s t := by
  unfold portCommand
  split
  · exact ⟨w, rfl, h⟩
  all_goals exact ⟨s, rfl, s, s.port, rfl, takes_refl_of_port hc s⟩

/-! ### Port commands -/

theorem answers_configure (r : ConfigWire) (s : State) :
    ∃ t, exec (.configure r) s = .next t ∧ Answers (.configure r) s t := by
  refine answers_portCommand rfl ?_
  split
  · next hpart => exact answers_reply _ _ ⟨_, .inr ⟨hpart, rfl⟩, Leaves.refl _⟩
  all_goals exact answers_refuse rfl _ s

theorem answers_start (offset : W16) (s : State) :
    ∃ t, exec (.start offset) s = .next t ∧ Answers (.start offset) s t := by
  refine answers_portCommand rfl ?_
  split
  · next hpart =>
    split
    · exact answers_refuse rfl _ s
    · exact answers_ok (.inr ⟨hpart, rfl⟩) (leaves_startPart _ s)
  all_goals exact answers_refuse rfl _ s

theorem answers_stop (s : State) : ∃ t, exec .stop s = .next t ∧ Answers .stop s t := by
  refine answers_portCommand rfl ?_
  split
  · next hpart =>
    have hpartOut : Leaves s (s.withPart .stopping) :=
      ⟨rfl, rfl, rfl, rfl, rfl, rfl, fun h => (nomatch hpart.symm.trans h), .inl rfl, .inl rfl,
        .inl ⟨rfl, rfl⟩, le_rfl, id, le_rfl, id⟩
    exact answers_reply _ _ ⟨s, rfl,
      (hpartOut.trans (leaves_stopEngine _)).trans (leaves_checkStopWork _)⟩
  all_goals exact answers_refuse rfl _ s

theorem answers_wind (direction speed : W16) (s : State) :
    ∃ t, exec (.wind direction speed) s = .next t ∧ Answers (.wind direction speed) s t := by
  refine answers_portCommand rfl ?_
  split
  · exact answers_refuse rfl _ s
  all_goals exact answers_ok (.inr rfl) (leaves_reportClear _ _)

/-- An accepted request is placed, and the rest is the engine's. -/
theorem leaves_acceptRequest (r : Request) (s : State) :
    Leaves (s.modQueue (placeRequest r)) (acceptRequest r s) := by
  unfold acceptRequest
  dsimp only
  refine Leaves.trans ?_ (leaves_evalPoint _ _)
  split
  · exact leaves_takeHead _
  · exact leaves_takeHead _
  all_goals exact Leaves.refl _

theorem answers_submit (tag : W16) (cls : Byte) (target : W16) (wf : Byte) (wd : W16) (ef : Byte)
    (ed : W16) (s : State) : ∃ t, exec (.submit tag cls target wf wd ef ed) s = .next t ∧
      Answers (.submit tag cls target wf wd ef ed) s t := by
  refine answers_portCommand rfl ?_
  split
  · exact answers_refuse rfl _ s
  · exact answers_refuse rfl _ s
  · split
    · exact answers_refuse rfl _ s
    · split
      · exact answers_refuse rfl _ s
      · split_ifs with htag hfull
        · exact answers_refuse rfl _ s
        · exact answers_refuse rfl _ s
        · exact answers_ok (.inr ⟨not_le.1 hfull, _, rfl⟩) (leaves_acceptRequest _ s)

theorem answers_submitSweep (tag : W16) (cls : Byte) (step count : W16) (pacing : Byte)
    (interval : W16) (policy : Byte) (s : State) :
    ∃ t, exec (.submitSweep tag cls step count pacing interval policy) s = .next t ∧
      Answers (.submitSweep tag cls step count pacing interval policy) s t := by
  refine answers_portCommand rfl ?_
  split
  · exact answers_refuse rfl _ s
  · exact answers_refuse rfl _ s
  · split
    · exact answers_refuse rfl _ s
    · split
      · exact answers_refuse rfl _ s
      · split
        · exact answers_refuse rfl _ s
        · split
          · exact answers_refuse rfl _ s
          · split_ifs with htag hfull
            · exact answers_refuse rfl _ s
            · exact answers_refuse rfl _ s
            · exact answers_ok (.inr ⟨not_le.1 hfull, _, rfl⟩) (leaves_acceptRequest _ s)

theorem answers_extend (tag extension : W16) (s : State) :
    ∃ t, exec (.extend tag extension) s = .next t ∧ Answers (.extend tag extension) s t := by
  refine answers_portCommand rfl ?_
  split
  · exact answers_refuse rfl _ s
  · exact answers_refuse rfl _ s
  · split
    · exact answers_refuse rfl _ s
    · split
      · exact answers_refuse rfl _ s
      · split_ifs
        · exact answers_refuse rfl _ s
        · exact answers_refuse rfl _ s
        · exact answers_ok rfl (leaves_modQueue s _ (length_modTag _ _ _).le)

theorem answers_confirm (s : State) : ∃ t, exec .confirm s = .next t ∧ Answers .confirm s t := by
  refine answers_portCommand rfl ?_
  split
  · exact answers_refuse rfl _ s
  · exact answers_refuse rfl _ s
  · split
    · exact answers_refuse rfl _ s
    · split
      · exact answers_refuse rfl _ s
      · split
        · exact answers_refuse rfl _ s
        · have hflag := leaves_modQueue s
            (modFront (Request.modSweep fun v => { v with confirm := true }))
            (length_modFront _ _).le
          dsimp only
          split
          · exact answers_ok rfl hflag
          · exact answers_ok rfl (hflag.trans (leaves_evalPoint _ _))

theorem leaves_cancelRequest (r : Request) (s : State) : Leaves s (cancelRequest r s) := by
  unfold cancelRequest
  split
  · exact leaves_completeRequest _ _ s
  · exact (leaves_completeRequest _ _ s).trans (leaves_takeNext _)
  · exact ((leaves_withdraw s).trans (leaves_completeRequest _ _ _)).trans (leaves_takeNext _)
  · exact ((leaves_lapse s).trans (leaves_completeRequest _ _ _)).trans (leaves_takeNext _)
  · exact leaves_modQueue s _ (length_modTag _ _ _).le
  · exact (leaves_modEngine s _ rfl).trans (leaves_completeRequest _ _ _)

theorem answers_cancel (tag : W16) (s : State) :
    ∃ t, exec (.cancel tag) s = .next t ∧ Answers (.cancel tag) s t := by
  refine answers_portCommand rfl ?_
  split
  · exact answers_refuse rfl _ s
  all_goals
    split
    · exact answers_refuse rfl _ s
    · split_ifs
      · exact answers_refuse rfl _ s
      · exact answers_refuse rfl _ s
      · exact answers_ok rfl (leaves_cancelRequest _ s)

theorem answers_begun (tag : W16) (s : State) :
    ∃ t, exec (.begun tag) s = .next t ∧ Answers (.begun tag) s t := by
  refine answers_portCommand rfl ?_
  split
  · exact answers_refuse rfl _ s
  all_goals
    split
    · split_ifs
      · exact answers_ok rfl (leaves_enterMoving _ s)
      · exact answers_refuse rfl _ s
      · exact answers_refuse rfl _ s
    · split_ifs
      · exact answers_refuse rfl _ s
      · exact answers_refuse rfl _ s

theorem answers_ended (tag achieved : W16) (s : State) :
    ∃ t, exec (.ended tag achieved) s = .next t ∧ Answers (.ended tag achieved) s t := by
  refine answers_portCommand rfl ?_
  split
  · exact answers_refuse rfl _ s
  all_goals
    split
    · next g hstate hgrant =>
      split
      · next htag =>
        exact answers_ok (.inr ⟨hstate, by rw [hgrant, htag]; rfl, rfl⟩) (leaves_endMove _ g s)
      · exact answers_refuse rfl _ s
    · exact answers_refuse rfl _ s

theorem answers_hold (s : State) : ∃ t, exec .hold s = .next t ∧ Answers .hold s t := by
  refine answers_portCommand rfl ?_
  split
  · exact answers_refuse rfl _ s
  all_goals exact answers_ok rfl (leaves_reportSet _ s)

theorem answers_release (s : State) : ∃ t, exec .release s = .next t ∧ Answers .release s t := by
  refine answers_portCommand rfl ?_
  split
  · exact answers_refuse rfl _ s
  all_goals exact answers_ok rfl (leaves_reportClear _ s)

theorem leaves_clearStorm (s : State) : Leaves s (clearStorm s) := by
  unfold clearStorm
  split
  · exact Leaves.refl s
  · exact (leaves_modHolds s _).trans (leaves_reportClear _ _)

theorem answers_clearHold (source : Byte) (s : State) :
    ∃ t, exec (.clearHold source) s = .next t ∧ Answers (.clearHold source) s t := by
  refine answers_portCommand rfl ?_
  split
  · exact answers_refuse rfl _ s
  all_goals
    split
    · exact answers_ok rfl (leaves_clearStorm s)
    · exact answers_refuse rfl _ s

theorem answers_resume (s : State) : ∃ t, exec .resume s = .next t ∧ Answers .resume s t := by
  refine answers_portCommand rfl ?_
  split
  · exact answers_refuse rfl _ s
  all_goals
    split
    · exact answers_refuse rfl _ s
    · exact answers_ok rfl (leaves_reportClear _ s)

theorem leaves_completeDeferred (n : Nat) (s : State) : Leaves s (completeDeferred n s) := by
  induction n generalizing s with
  | zero => exact Leaves.refl s
  | succ n ih =>
    unfold completeDeferred
    split
    · exact Leaves.refl s
    · split
      · exact Leaves.refl s
      · dsimp only
        split
        · exact ((leaves_completeRequest _ _ s).trans (leaves_takeNext _)).trans (ih _)
        · exact (leaves_completeRequest _ _ s).trans (ih _)

theorem leaves_reportGuard (s : State) : Leaves s (reportGuard s) :=
  .of_keeps (keeps_reportGuard s) (contains_reportGuard s)

theorem leaves_afterFall (s : State) : Leaves s (afterFall s) := by
  unfold afterFall
  dsimp only
  split <;> split
  · exact ((leaves_completeDeferred _ s).trans (leaves_reportGuard _)).trans (leaves_evalPoint _ _)
  · exact (leaves_completeDeferred _ s).trans (leaves_reportGuard _)
  · exact leaves_evalPoint _ s
  · exact Leaves.refl s

theorem answers_takeOutcomes (n : Byte) (s : State) :
    ∃ t, exec (.takeOutcomes n) s = .next t ∧ Answers (.takeOutcomes n) s t := by
  refine answers_portCommand rfl ?_
  refine answers_reply _ _ ⟨takeRecords (takeCount n s) s, .inr rfl, ?_⟩
  split
  · exact Leaves.refl _
  · exact leaves_afterFall _

/-! ### Requests' deadlines -/

theorem takes_waiveTime (tag : W16) (s : State) :
    ∃ t, exec (.waiveTime tag) s = .next t ∧ Leaves s t := by
  refine ⟨_, rfl, ?_⟩
  split
  · exact Leaves.refl s
  · split
    · exact Leaves.refl s
    · split
      · have hover := leaves_modQueue s
          (modTag tag (Request.modMove fun v => { v with waiveRuns := false }))
          (length_modTag _ _ _).le
        dsimp only
        split
        · exact hover.trans (leaves_evalPoint _ _)
        · exact hover
      · exact Leaves.refl s

theorem leaves_expireRequest (r : Request) (s : State) : Leaves s (expireRequest r s) := by
  unfold expireRequest
  split
  · exact ((leaves_withdraw s).trans (leaves_completeRequest _ _ _)).trans (leaves_takeNext _)
  · split_ifs
    · exact leaves_modQueue s _ (length_modTag _ _ _).le
    · exact (leaves_completeRequest _ _ s).trans (leaves_takeNext _)
    · exact leaves_completeRequest _ _ s
  · split_ifs
    · exact leaves_modQueue s _ (length_modTag _ _ _).le
    · exact (leaves_completeRequest _ _ s).trans (leaves_takeNext _)
  all_goals exact Leaves.refl s

theorem takes_expiryTime (tag : W16) (s : State) :
    ∃ t, exec (.expiryTime tag) s = .next t ∧ Leaves s t := by
  refine ⟨_, rfl, ?_⟩
  split
  · exact Leaves.refl s
  · split
    · exact Leaves.refl s
    · split
      · exact leaves_expireRequest _ s
      · exact Leaves.refl s

theorem leaves_underrunEnd (r : Request) (s : State) : Leaves s (underrunEnd r s) := by
  unfold underrunEnd
  split
  · exact (leaves_modEngine s _ rfl).trans (leaves_completeRequest _ _ _)
  · split_ifs
    · exact leaves_modQueue s _ (length_modTag _ _ _).le
    · exact (leaves_completeRequest _ _ s).trans (leaves_takeNext _)
    · exact leaves_completeRequest _ _ s
  · split_ifs
    · exact leaves_modQueue s _ (length_modTag _ _ _).le
    · exact (leaves_completeRequest _ _ s).trans (leaves_takeNext _)
  all_goals exact Leaves.refl s

theorem leaves_stepBecomesEligible (r : Request) (s : State) :
    Leaves s (stepBecomesEligible r s) := by
  unfold stepBecomesEligible
  split
  · exact leaves_evalPoint _ s
  · exact Leaves.refl s

theorem leaves_judgePace (r : Request) (w : SweepJob) (s : State) :
    Leaves s (judgePace r w s) := by
  have hcleared := leaves_modQueue s
    (modTag r.tag (Request.modSweep fun v => { v with paceDeadline := none }))
    (length_modTag _ _ _).le
  unfold judgePace
  dsimp only
  split
  · exact hcleared
  · split
    · exact hcleared.trans (leaves_stepBecomesEligible _ _)
    · split
      · exact (hcleared.trans (leaves_modAttention _ _)).trans (leaves_stepBecomesEligible _ _)
      · exact (leaves_modQueue s _ (length_modTag _ _ _).le).trans (leaves_modAttention _ _)
      · exact hcleared.trans (leaves_underrunEnd _ _)

theorem takes_paceDeadline (tag : W16) (s : State) :
    ∃ t, exec (.paceDeadline tag) s = .next t ∧ Leaves s t := by
  refine ⟨_, rfl, ?_⟩
  split
  · exact Leaves.refl s
  · split
    · exact Leaves.refl s
    · split
      · exact leaves_judgePace _ _ s
      · exact Leaves.refl s

/-! ### The engine's timers -/

theorem takes_holdOffExpiry (s : State) : ∃ t, exec .holdOffExpiry s = .next t ∧ Leaves s t := by
  refine ⟨_, rfl, ?_⟩
  have hmark := leaves_modEngine s (fun e => { e with expired := true, holdOff := none }) rfl
  dsimp only
  split_ifs
  · exact hmark.trans (leaves_commitTest _)
  · exact hmark
  · exact Leaves.refl s

theorem takes_yieldPauseExpiry (s : State) :
    ∃ t, exec .yieldPauseExpiry s = .next t ∧ Leaves s t := by
  refine ⟨_, rfl, ?_⟩
  split
  · exact (leaves_modEngine s _ rfl).trans (leaves_evaluate _)
  · exact Leaves.refl s

theorem takes_startTimeoutExpiry (s : State) :
    ∃ t, exec .startTimeoutExpiry s = .next t ∧ Leaves s t := by
  refine ⟨_, rfl, ?_⟩
  split
  · split
    · dsimp only
      have hraised := fun ctx => leaves_raiseFault .noStart ctx s
      split
      · exact (((hraised _).trans (leaves_lapse _)).trans (leaves_completeRequest _ _ _)).trans
          (leaves_takeNext _)
      · exact ((hraised _).trans (leaves_completeRequest _ _ _)).trans (leaves_takeNext _)
    · exact Leaves.refl s
  · exact Leaves.refl s

theorem takes_overrunExpiry (s : State) : ∃ t, exec .overrunExpiry s = .next t ∧ Leaves s t := by
  refine ⟨_, rfl, ?_⟩
  split
  · split
    · exact (leaves_modEngine s _ rfl).trans (leaves_raiseFault _ _ _)
    · exact Leaves.refl s
  · exact Leaves.refl s

theorem takes_settleExpiry (s : State) : ∃ t, exec .settleExpiry s = .next t ∧ Leaves s t := by
  refine ⟨_, rfl, ?_⟩
  split
  · exact leaves_endSettling s
  · exact Leaves.refl s

/-! ### The lines and the link -/

theorem takes_stormLineEvent (high : Bool) (s : State) : ∃ t, exec (.stormLineEvent high) s = .next t ∧
    Leaves (s.modPins fun p => { p with storm := high }) t := by
  refine ⟨_, rfl, ?_⟩
  split
  · next hsame => subst hsame; exact Leaves.refl s
  · dsimp only
    split
    · exact (leaves_modHolds _ _).trans (leaves_reportSet _ _)
    · exact Leaves.refl _

theorem takes_parkFallingEdge (s : State) :
    ∃ t, exec .parkFallingEdge s = .next t ∧ Leaves s t := by
  refine ⟨_, rfl, ?_⟩
  split
  · exact (leaves_servePark s).trans (leaves_checkStopWork _)
  · exact Leaves.refl s

theorem takes_lsdDeasserted (s : State) : ∃ t, exec .lsdDeasserted s = .next t ∧
    Leaves (s.modPins fun p => { p with light := false }) t := by
  refine ⟨_, rfl, ?_⟩
  split
  · dsimp only
    split
    · exact leaves_modLink _ _ le_rfl id
    · exact Leaves.refl _
  · next hlight =>
    have hsame : s.modPins (fun p => { p with light := false }) = s := by
      rw [State.modPins, ← Bool.eq_false_iff.2 hlight]
    rw [hsame]
    exact Leaves.refl s

theorem takes_lsdAsserted (s : State) : ∃ t, exec .lsdAsserted s = .next t ∧
    Leaves (s.modPins fun p => { p with light := true }) t := by
  refine ⟨_, rfl, ?_⟩
  split
  · next hlight =>
    have hsame : s.modPins (fun p => { p with light := true }) = s := by
      rw [State.modPins, ← hlight]
    rw [hsame]
    exact Leaves.refl s
  · dsimp only
    split
    · exact leaves_modLink _ _ le_rfl id
    · exact leaves_modLink _ _ le_rfl id
    · exact leaves_modLink _ _ le_rfl id
    · exact leaves_modLink _ (fun l => l.enterListen s.cfg s.now true) le_rfl id
    · exact Leaves.refl _

theorem takes_laneActivity (s : State) : ∃ t, exec .laneActivity s = .next t ∧
    Leaves (s.modPins fun p => { p with laneActive := true }) t := by
  refine ⟨_, rfl, ?_⟩
  dsimp only
  split
  · exact leaves_modLink _ _ le_rfl id
  all_goals exact Leaves.refl _

theorem takes_laneQuiet (s : State) : ∃ t, exec .laneQuiet s = .next t ∧
    Leaves (s.modPins fun p => { p with laneActive := false }) t := by
  refine ⟨_, rfl, ?_⟩
  dsimp only
  split
  · exact leaves_modLink _ Link.startGap le_rfl id
  all_goals exact Leaves.refl _

theorem takes_frameReceived (rx : Received) (s : State) :
    ∃ t, exec (.frameReceived rx) s = .next t ∧ Takes (.frameReceived rx) s t := by
  have hnone : Takes (.frameReceived rx) s s := ⟨s, .inl rfl, Leaves.refl s⟩
  refine ⟨_, rfl, ?_⟩
  split
  · split
    · next f _ =>
      split
      · exact ⟨s, .inl rfl, leaves_ownFrame _ s⟩
      · unfold otherFrame
        dsimp only
        split
        · exact ⟨s, .inl rfl, (leaves_modLink s _ le_rfl id).trans (leaves_raiseFault _ _ _)⟩
        · next hroom =>
          refine ⟨_, .inr ⟨not_le.1 hroom, ⟨f, s.now⟩, rfl⟩, Leaves.trans ?_ (leaves_takeFrame _)⟩
          exact leaves_modLink _ (fun l =>
            { l with heardOther := l.heardOther || decide (l.trail.current = .check) }) le_rfl id
    · exact hnone
  · exact hnone

theorem leaves_enterSend (s : State) : Leaves s (s.modLink (Link.enterSend s.cfg s.now)) := by
  refine leaves_modLink s _ ?_ ?_
  all_goals
    unfold Link.enterSend
    split
    all_goals simp

theorem takes_gapEnd (s : State) : ∃ t, exec .gapEnd s = .next t ∧ Leaves s t := by
  refine ⟨_, rfl, ?_⟩
  split
  · exact leaves_enterSend s
  all_goals exact Leaves.refl s

theorem takes_endOfTransmission (s : State) :
    ∃ t, exec .endOfTransmission s = .next t ∧ Leaves s t := by
  refine ⟨_, rfl, ?_⟩
  split
  · exact leaves_modLink s _ le_rfl id
  all_goals exact Leaves.refl s

theorem takes_echoDeadline (s : State) : ∃ t, exec .echoDeadline s = .next t ∧ Leaves s t := by
  refine ⟨_, rfl, ?_⟩
  split
  · exact leaves_collision s
  all_goals exact Leaves.refl s

theorem leaves_beginAttempt (s : State) (lane : Bool) :
    Leaves s (s.modLink (Link.beginAttempt lane)) := leaves_modLink s _ (by simp) (by simp)

theorem takes_backoffEnd (s : State) : ∃ t, exec .backoffEnd s = .next t ∧ Leaves s t := by
  refine ⟨_, rfl, ?_⟩
  split
  · exact leaves_beginAttempt s _
  all_goals exact Leaves.refl s

theorem takes_listenTimerExpiry (s : State) :
    ∃ t, exec .listenTimerExpiry s = .next t ∧ Leaves s t := by
  refine ⟨_, rfl, ?_⟩
  split
  · exact leaves_enterReady s
  · exact Leaves.refl s

theorem takes_checkPeriodExpiry (s : State) :
    ∃ t, exec .checkPeriodExpiry s = .next t ∧ Leaves s t := by
  refine ⟨_, rfl, ?_⟩
  split_ifs
  · exact leaves_enterReady s
  · exact leaves_modLink s _ le_rfl id
  · exact Leaves.refl s

theorem takes_signalLossTimerExpiry (s : State) :
    ∃ t, exec .signalLossTimerExpiry s = .next t ∧ Leaves s t := by
  refine ⟨_, rfl, ?_⟩
  split_ifs
  · exact leaves_enterDown s
  · exact (leaves_enterDown s).trans (leaves_enterConfig _)
  · exact Leaves.refl s

theorem takes_refreshTimerExpiry (s : State) :
    ∃ t, exec .refreshTimerExpiry s = .next t ∧ Leaves s t := by
  refine ⟨_, rfl, ?_⟩
  have hstopped := leaves_modLink s (fun l => { l with refresh := none }) le_rfl id
  dsimp only
  split_ifs
  · exact hstopped.trans (leaves_beginAttempt _ _)
  · exact hstopped
  · exact Leaves.refl s

/-! ### The intake, the tables and the wind record -/

theorem takes_geometryPoint (s : State) : ∃ t, exec .geometryPoint s = .next t ∧ Leaves s t := by
  refine ⟨_, rfl, ?_⟩
  split
  · split
    · exact leaves_withIntake s _
    · exact Leaves.refl s
  · exact Leaves.refl s

theorem takes_intakeCompletion (s : State) :
    ∃ t, exec .intakeCompletion s = .next t ∧ Takes .intakeCompletion s t := by
  have hnone : Takes .intakeCompletion s s := ⟨s, .inl rfl, Leaves.refl s⟩
  refine ⟨_, rfl, ?_⟩
  split
  · split
    · dsimp only
      split
      · exact ⟨s, .inl rfl, (leaves_withIntake s none).trans (leaves_takeFrame _)⟩
      · exact ⟨_, .inr ⟨_, _, _, rfl⟩, (leaves_evalPoint _ _).trans (leaves_takeFrame _)⟩
    · exact hnone
  · exact hnone

theorem takes_entryExpiry (station : Nat) (s : State) :
    ∃ t, exec (.entryExpiry station) s = .next t ∧ Takes (.entryExpiry station) s t := by
  have hnone : Takes (.entryExpiry station) s s := ⟨s, .inl rfl, Leaves.refl s⟩
  refine ⟨_, rfl, ?_⟩
  split
  · split
    · exact ⟨_, .inr rfl, leaves_evalPoint _ _⟩
    · exact hnone
  · exact hnone

theorem takes_windowClose (station : Nat) (move : Byte) (s : State) :
    ∃ t, exec (.windowClose station move) s = .next t ∧ Takes (.windowClose station move) s t := by
  have hnone : Takes (.windowClose station move) s s := ⟨s, .inl rfl, Leaves.refl s⟩
  refine ⟨_, rfl, ?_⟩
  split
  · split
    · exact ⟨_, .inr rfl, leaves_evalPoint _ _⟩
    · exact hnone
  · exact hnone

theorem takes_binBoundary (s : State) :
    ∃ t, exec .binBoundary s = .next t ∧ Takes .binBoundary s t := by
  refine ⟨_, rfl, ?_⟩
  split
  · dsimp only
    split
    · exact ⟨_, .inr ⟨_, _, rfl⟩, Leaves.refl _⟩
    · exact ⟨_, .inr ⟨_, _, rfl⟩, leaves_evalPoint _ _⟩
  · exact ⟨s, .inl rfl, Leaves.refl s⟩

theorem takes_windStalenessExpiry (s : State) :
    ∃ t, exec .windStalenessExpiry s = .next t ∧ Takes .windStalenessExpiry s t := by
  refine ⟨_, rfl, ?_⟩
  split
  · exact ⟨_, .inr rfl, (leaves_reportSet _ _).trans (leaves_raiseFault _ _ _)⟩
  · exact ⟨s, .inl rfl, Leaves.refl s⟩

/-! ### All commands -/

/-- An event's effect, with nothing to answer. -/
theorem answers_event {c : Instr} {s : State} (h : ∃ t, exec c s = .next t ∧ Takes c s t) :
    ∃ t, exec c s = .next t ∧ Answers c s t := by
  obtain ⟨t, he, ht⟩ := h
  exact ⟨t, he, t, t.port, rfl, ht⟩

/-- An event that writes nothing of its own. -/
theorem takes_of_leaves {c : Instr} {s u : State} (hu : Begins c s u)
    (h : ∃ t, exec c s = .next t ∧ Leaves u t) : ∃ t, exec c s = .next t ∧ Takes c s t := by
  obtain ⟨t, he, ht⟩ := h
  exact ⟨t, he, u, hu, ht⟩

/-- An event other than reset and TRANSACTION_END. -/
theorem exec_event (c : Instr) (s : State) (hc : isPortCommand c = false)
    (ht : c ≠ .transactionEnd) (hr : ∀ b, c ≠ .hardwareReset b) :
    ∃ t, exec c s = .next t ∧ Takes c s t := by
  cases c with
  | hardwareReset b => exact absurd rfl (hr b)
  | transactionEnd => exact absurd rfl ht
  | localTimeTick => exact ⟨_, rfl, _, rfl, Leaves.refl _⟩
  | stormLineEvent high => exact takes_of_leaves rfl (takes_stormLineEvent high s)
  | parkFallingEdge => exact takes_of_leaves rfl (takes_parkFallingEdge s)
  | lsdDeasserted => exact takes_of_leaves rfl (takes_lsdDeasserted s)
  | lsdAsserted => exact takes_of_leaves rfl (takes_lsdAsserted s)
  | frameReceived rx => exact takes_frameReceived rx s
  | laneActivity => exact takes_of_leaves rfl (takes_laneActivity s)
  | laneQuiet => exact takes_of_leaves rfl (takes_laneQuiet s)
  | gapEnd => exact takes_of_leaves rfl (takes_gapEnd s)
  | endOfTransmission => exact takes_of_leaves rfl (takes_endOfTransmission s)
  | echoDeadline => exact takes_of_leaves rfl (takes_echoDeadline s)
  | backoffEnd => exact takes_of_leaves rfl (takes_backoffEnd s)
  | listenTimerExpiry => exact takes_of_leaves rfl (takes_listenTimerExpiry s)
  | checkPeriodExpiry => exact takes_of_leaves rfl (takes_checkPeriodExpiry s)
  | signalLossTimerExpiry => exact takes_of_leaves rfl (takes_signalLossTimerExpiry s)
  | refreshTimerExpiry => exact takes_of_leaves rfl (takes_refreshTimerExpiry s)
  | geometryPoint => exact takes_of_leaves rfl (takes_geometryPoint s)
  | intakeCompletion => exact takes_intakeCompletion s
  | entryExpiry station => exact takes_entryExpiry station s
  | windowClose station move => exact takes_windowClose station move s
  | binBoundary => exact takes_binBoundary s
  | windStalenessExpiry => exact takes_windStalenessExpiry s
  | waiveTime tag => exact takes_of_leaves rfl (takes_waiveTime tag s)
  | expiryTime tag => exact takes_of_leaves rfl (takes_expiryTime tag s)
  | paceDeadline tag => exact takes_of_leaves rfl (takes_paceDeadline tag s)
  | holdOffExpiry => exact takes_of_leaves rfl (takes_holdOffExpiry s)
  | yieldPauseExpiry => exact takes_of_leaves rfl (takes_yieldPauseExpiry s)
  | startTimeoutExpiry => exact takes_of_leaves rfl (takes_startTimeoutExpiry s)
  | overrunExpiry => exact takes_of_leaves rfl (takes_overrunExpiry s)
  | settleExpiry => exact takes_of_leaves rfl (takes_settleExpiry s)
  | guardAfterStart => exact takes_of_leaves rfl ⟨_, rfl, leaves_guardRise s⟩
  | configure | start | stop | wind | submit | submitSweep | extend | confirm | cancel | begun
  | ended | hold | release | clearHold | resume | status | takeOutcomes | readNeighbours
  | readWindows | clearFaults | clearLost | unknownCode => contradiction

/-- A port command. -/
theorem exec_portCommand (c : Instr) (s : State) (hc : isPortCommand c = true) :
    ∃ t, exec c s = .next t ∧ Answers c s t := by
  cases c with
  | configure r => exact answers_configure r s
  | start offset => exact answers_start offset s
  | stop => exact answers_stop s
  | wind direction speed => exact answers_wind direction speed s
  | submit tag cls target wf wd ef ed => exact answers_submit tag cls target wf wd ef ed s
  | submitSweep tag cls step count pacing interval policy =>
    exact answers_submitSweep tag cls step count pacing interval policy s
  | extend tag extension => exact answers_extend tag extension s
  | confirm => exact answers_confirm s
  | cancel tag => exact answers_cancel tag s
  | begun tag => exact answers_begun tag s
  | ended tag achieved => exact answers_ended tag achieved s
  | hold => exact answers_hold s
  | release => exact answers_release s
  | clearHold source => exact answers_clearHold source s
  | resume => exact answers_resume s
  | status =>
    exact answers_portCommand rfl (answers_reply _ _ ⟨s, rfl, leaves_modAttention s _⟩)
  | takeOutcomes n => exact answers_takeOutcomes n s
  | readNeighbours first =>
    exact answers_portCommand rfl (answers_reply _ _ (takes_refl_of_port rfl s))
  | readWindows first =>
    exact answers_portCommand rfl (answers_reply _ _ (takes_refl_of_port rfl s))
  | clearFaults kinds =>
    exact answers_portCommand rfl (answers_ok rfl (leaves_modRecorder s _))
  | clearLost => exact answers_portCommand rfl (answers_ok (.inr rfl) (Leaves.refl _))
  | unknownCode code => exact answers_portCommand rfl (answers_refuse rfl _ s)
  | hardwareReset | localTimeTick | stormLineEvent | parkFallingEdge | lsdDeasserted | lsdAsserted
  | frameReceived | laneActivity | laneQuiet | gapEnd | endOfTransmission | echoDeadline
  | backoffEnd | listenTimerExpiry | checkPeriodExpiry | signalLossTimerExpiry
  | refreshTimerExpiry | geometryPoint | intakeCompletion | entryExpiry | windowClose | binBoundary
  | windStalenessExpiry | waiveTime | expiryTime | paceDeadline | holdOffExpiry | yieldPauseExpiry
  | startTimeoutExpiry | overrunExpiry | settleExpiry | guardAfterStart | transactionEnd =>
    contradiction

/-- Every command answers a next state: its own writes, then a frame, then its answer. -/
theorem exec_answers (c : Instr) (s : State) : ∃ t, exec c s = .next t ∧ Answers c s t := by
  cases hc : isPortCommand c with
  | true => exact exec_portCommand c s hc
  | false =>
    by_cases ht : c = .transactionEnd
    · subst ht
      exact ⟨_, rfl, s, _, rfl, s, rfl, Leaves.refl s⟩
    · by_cases hr : ∃ b, c = .hardwareReset b
      · obtain ⟨b, rfl⟩ := hr
        let u : State := { State.reset with
          pending := s.pending
          pins := s.pins
          port := ⟨if b then .blocked else .noTransaction, []⟩ }
        exact ⟨u, rfl, u, u.port, rfl, u, rfl, Leaves.refl u⟩
      · exact answers_event (exec_event c s hc ht fun b hb => hr ⟨b, hb⟩)

end Sys2Proof.Machine
end

section
/-! SUPPORT. The sorted lists: the neighbour table and the window list keep their order, one entry a key,
and their capacity through every operation on them (R55, R64, R89, R91). -/

namespace Sys2Proof.Machine

/-! ### The neighbour table -/

theorem mem_insertNeighbour {n m : Neighbour} {ns : List Neighbour} :
    m ∈ insertNeighbour n ns ↔ m = n ∨ m ∈ ns := by
  induction ns with
  | nil => simp [insertNeighbour]
  | cons v vs ih =>
    unfold insertNeighbour
    split
    · simp
    · simp only [List.mem_cons, ih]
      tauto

@[simp] theorem length_insertNeighbour (n : Neighbour) (ns : List Neighbour) :
    (insertNeighbour n ns).length = ns.length + 1 := by
  induction ns with
  | nil => rfl
  | cons v vs ih =>
    unfold insertNeighbour
    split
    · rfl
    · simp [ih]

/-- A table in strictly ascending order of station number (R55). -/
abbrev Ascending (ns : List Neighbour) : Prop := ns.Pairwise fun n m => n.station < m.station

/-- A station that the table lacks is inserted in its place. -/
theorem ascending_insertNeighbour {n : Neighbour} {ns : List Neighbour} (h : Ascending ns)
    (hnew : ∀ m ∈ ns, m.station ≠ n.station) : Ascending (insertNeighbour n ns) := by
  induction ns with
  | nil => simp [insertNeighbour]
  | cons v vs ih =>
    obtain ⟨hv, hvs⟩ := List.pairwise_cons.1 h
    unfold insertNeighbour
    split
    · next hlt =>
      refine List.pairwise_cons.2 ⟨fun m hm => ?_, h⟩
      rcases List.mem_cons.1 hm with rfl | hm
      · exact hlt
      · exact hlt.trans (hv m hm)
    · next hge =>
      have hvn : v.station < n.station :=
        lt_of_le_of_ne (not_lt.1 hge) (hnew v List.mem_cons_self)
      refine List.pairwise_cons.2
        ⟨fun m hm => ?_, ih hvs fun m hm => hnew m (List.mem_cons_of_mem _ hm)⟩
      rcases mem_insertNeighbour.1 hm with rfl | hm
      · exact hvn
      · exact hv m hm

theorem ascending_filter {ns : List Neighbour} (h : Ascending ns) (p : Neighbour → Bool) :
    Ascending (ns.filter p) := h.sublist List.filter_sublist

/-- An update in place that keeps every station number. -/
theorem ascending_map {ns : List Neighbour} (h : Ascending ns) {f : Neighbour → Neighbour}
    (hf : ∀ n, (f n).station = n.station) : Ascending (ns.map f) := by
  rw [Ascending, List.pairwise_map]
  simpa only [hf] using h

theorem mem_of_pickVictim {ns : List Neighbour} {v : Neighbour} (h : pickVictim ns = some v) :
    v ∈ ns := by
  induction ns generalizing v with
  | nil => cases h
  | cons n rest ih =>
    unfold pickVictim at h
    split at h
    · cases h; exact List.mem_cons_self
    · next m hm =>
      split at h
      · cases h; exact List.mem_cons_of_mem _ (ih hm)
      · cases h; exact List.mem_cons_self

/-- The victim of a full table is one of its entries (R64). -/
theorem mem_of_victim {ns : List Neighbour} {v : Neighbour} (h : victim ns = some v) : v ∈ ns := by
  unfold victim at h
  split at h
  · next n hn =>
    cases h
    exact (List.mem_filter.1 (mem_of_pickVictim hn)).1
  · exact (List.mem_filter.1 (mem_of_pickVictim h)).1

/-- The removal of an entry makes room. -/
theorem length_removeNeighbour_lt {ns : List Neighbour} {v : Neighbour} (h : v ∈ ns) :
    (removeNeighbour v.station ns).length < ns.length :=
  List.length_filter_lt_length_iff_exists.2 ⟨v, h, by simp⟩

theorem length_removeNeighbour_le (station : Nat) (ns : List Neighbour) :
    (removeNeighbour station ns).length ≤ ns.length := List.length_filter_le _ _

/-- What a table step does to the state: the table alone, or TABLE-FULL raised over the table as it
was. -/
theorem tableStep_cases (f : Frame) (arrival : Nat) (g : Option GeometryResult) (s : State) :
    tableStep f arrival g s = s.modNeighbours (fun _ => (tableStep f arrival g s).neighbours) ∨
    ∃ ctx, tableStep f arrival g s = raiseFault .tableFull ctx s := by
  unfold tableStep
  split
  · split <;> exact .inl rfl
  · split
    · split
      · exact .inl rfl
      · split
        · exact .inl rfl
        · exact .inr ⟨_, rfl⟩
    · exact .inl rfl

/-- A table step but for the table is a frame. -/
theorem leaves_tableStep (f : Frame) (arrival : Nat) (g : Option GeometryResult) (s : State) :
    Leaves (s.modNeighbours fun _ => (tableStep f arrival g s).neighbours)
      (tableStep f arrival g s) := by
  rcases tableStep_cases f arrival g s with h | ⟨ctx, h⟩
  · conv_rhs => rw [h]
    exact Leaves.refl _
  · rw [h, (keeps_raiseFault .tableFull ctx s).neighbours]
    exact leaves_raiseFault _ _ s

/-- The table step keeps a table lawful, with one entry a station: an entry is updated in place, or one
of a new station is inserted, a victim making room in a full table (R55, R60, R64). -/
theorem tableStep_lawful (f : Frame) (arrival : Nat) (g : Option GeometryResult) (s : State) :
    (s.neighbours.length ≤ 48 → (tableStep f arrival g s).neighbours.length ≤ 48) ∧
      (Ascending s.neighbours → Ascending (tableStep f arrival g s).neighbours) := by
  unfold tableStep
  split
  · next n hfind =>
    split
    · exact ⟨(length_removeNeighbour_le _ _).trans, fun h => ascending_filter h _⟩
    · refine ⟨(List.length_map _).trans_le, fun h => ascending_map h fun m => ?_⟩
      split
      · next hm => exact hm.symm
      · rfl
  · next hfind =>
    have hnew : ∀ m ∈ s.neighbours, m.station ≠ (newEntry s.cfg f arrival).station := fun m hm =>
      of_decide_eq_false (Bool.eq_false_iff.2 (List.find?_eq_none.1 hfind m hm))
    split
    · split
      · next hroom =>
        exact ⟨fun _ => (length_insertNeighbour _ _).trans_le hroom,
          fun h => ascending_insertNeighbour h hnew⟩
      · split
        · next v hv =>
          refine ⟨fun hcap => (length_insertNeighbour _ _).trans_le
              ((length_removeNeighbour_lt (mem_of_victim hv)).trans_le hcap),
            fun h => ascending_insertNeighbour (ascending_filter h _) fun m hm => ?_⟩
          exact hnew m (List.mem_filter.1 hm).1
        · rw [(keeps_raiseFault _ _ s).neighbours]
          exact ⟨id, id⟩
    · exact ⟨id, id⟩

/-! ### The order of the window list -/

/-- The key of a window's place: open time as held, station, move (R89). -/
theorem Window.before_congr {w w' v v' : Window} (ho : w'.openTime = w.openTime)
    (hs : w'.station = w.station) (hm : w'.move = w.move) (ho' : v'.openTime = v.openTime)
    (hs' : v'.station = v.station) (hm' : v'.move = v.move) : w'.before v' = w.before v := by
  unfold Window.before
  rw [ho, hs, hm, ho', hs', hm']

theorem Window.before_iff (w v : Window) : w.before v = true ↔
    heldTime w.openTime < heldTime v.openTime ∨
      (heldTime w.openTime = heldTime v.openTime ∧
        (w.station < v.station ∨ (w.station = v.station ∧ w.move.toNat < v.move.toNat))) := by
  unfold Window.before
  exact decide_eq_true_iff

theorem Window.hasKey_iff (w : Window) (station : Nat) (move : Byte) :
    w.hasKey station move = true ↔ w.station = station ∧ w.move = move := by
  unfold Window.hasKey
  exact decide_eq_true_iff

theorem Window.before_trans {w v u : Window} (h : w.before v = true) (k : v.before u = true) :
    w.before u = true := by
  rw [Window.before_iff] at *
  omega

/-- Of two windows of different keys one stands before the other. -/
theorem Window.before_of_not_before {w v : Window} (h : w.before v ≠ true)
    (hkey : v.hasKey w.station w.move ≠ true) : v.before w = true := by
  rw [ne_eq, Window.before_iff] at h
  rw [ne_eq, Window.hasKey_iff] at hkey
  rw [Window.before_iff]
  have hmove : v.station = w.station → v.move.toNat ≠ w.move.toNat := fun hs hm =>
    hkey ⟨hs, BitVec.eq_of_toNat_eq hm⟩
  omega

/-- A window list in order, with one window a key, and none that closes before it opens (R89). -/
structure ListLawful (ws : List Window) : Prop where
  order : ws.Pairwise fun w v => w.before v = true
  keys : ws.Pairwise fun w v => w.hasKey v.station v.move = false
  closes : ∀ w ∈ ws, heldTime w.openTime ≤ heldTime w.closeTime

theorem ListLawful.sublist {ws vs : List Window} (h : ListLawful ws) (hsub : vs.Sublist ws) :
    ListLawful vs :=
  ⟨h.order.sublist hsub, h.keys.sublist hsub, fun w hw => h.closes w (hsub.subset hw)⟩

/-- A step over the list that drops windows, or changes them without their place and key. -/
theorem ListLawful.filterMap {ws : List Window} (h : ListLawful ws) {f : Window → Option Window}
    (hplace : ∀ w v, f w = some v →
      v.openTime = w.openTime ∧ v.station = w.station ∧ v.move = w.move)
    (hcloses : ∀ w v, f w = some v → heldTime w.openTime ≤ heldTime w.closeTime →
      heldTime v.openTime ≤ heldTime v.closeTime) : ListLawful (ws.filterMap f) := by
  refine ⟨?_, ?_, fun v hv => ?_⟩
  · rw [List.pairwise_filterMap]
    refine h.order.imp fun {w v} hwv w' hw' v' hv' => ?_
    obtain ⟨ho, hs, hm⟩ := hplace w w' hw'
    obtain ⟨ho', hs', hm'⟩ := hplace v v' hv'
    exact (Window.before_congr ho hs hm ho' hs' hm').trans hwv
  · rw [List.pairwise_filterMap]
    refine h.keys.imp fun {w v} hwv w' hw' v' hv' => ?_
    obtain ⟨_, hs, hm⟩ := hplace w w' hw'
    obtain ⟨_, hs', hm'⟩ := hplace v v' hv'
    unfold Window.hasKey at *
    rw [hs, hm, hs', hm']
    exact hwv
  · obtain ⟨w, hw, hwv⟩ := List.mem_filterMap.1 hv
    exact hcloses w v hwv (h.closes w hw)

theorem mem_insertWindow {w v : Window} {ws : List Window} :
    v ∈ insertWindow w ws ↔ v = w ∨ v ∈ ws := by
  induction ws with
  | nil => simp [insertWindow]
  | cons u us ih =>
    unfold insertWindow
    split
    · simp
    · simp only [List.mem_cons, ih]
      tauto

@[simp] theorem length_insertWindow (w : Window) (ws : List Window) :
    (insertWindow w ws).length = ws.length + 1 := by
  induction ws with
  | nil => rfl
  | cons v vs ih =>
    unfold insertWindow
    split
    · rfl
    · simp [ih]

/-- A key seen from the other window. -/
theorem Window.hasKey_comm (w v : Window) :
    w.hasKey v.station v.move = v.hasKey w.station w.move := by
  unfold Window.hasKey
  exact decide_eq_decide.2 ⟨fun ⟨a, b⟩ => ⟨a.symm, b.symm⟩, fun ⟨a, b⟩ => ⟨a.symm, b.symm⟩⟩

/-- A window of a key that the list lacks is inserted in its place (R91). -/
theorem ListLawful.insertWindow {ws : List Window} (h : ListLawful ws) {w : Window}
    (hnew : ∀ v ∈ ws, v.hasKey w.station w.move = false)
    (hcloses : heldTime w.openTime ≤ heldTime w.closeTime) : ListLawful (insertWindow w ws) := by
  refine ⟨?_, ?_, fun v hv => ?_⟩
  · obtain ⟨horder, -, -⟩ := h
    induction ws with
    | nil => simp [Machine.insertWindow]
    | cons v vs ih =>
      obtain ⟨hv, hvs⟩ := List.pairwise_cons.1 horder
      unfold Machine.insertWindow
      split
      · next hbefore =>
        refine List.pairwise_cons.2 ⟨fun u hu => ?_, horder⟩
        rcases List.mem_cons.1 hu with rfl | hu
        · exact hbefore
        · exact Window.before_trans hbefore (hv u hu)
      · next hafter =>
        have hvw : v.before w = true := Window.before_of_not_before hafter
          (by rw [hnew v List.mem_cons_self]; exact Bool.false_ne_true)
        refine List.pairwise_cons.2
          ⟨fun u hu => ?_, ih (fun u hu => hnew u (List.mem_cons_of_mem _ hu)) hvs⟩
        rcases mem_insertWindow.1 hu with rfl | hu
        · exact hvw
        · exact hv u hu
  · obtain ⟨-, hkeys, -⟩ := h
    induction ws with
    | nil => simp [Machine.insertWindow]
    | cons v vs ih =>
      obtain ⟨hv, hvs⟩ := List.pairwise_cons.1 hkeys
      unfold Machine.insertWindow
      split
      · refine List.pairwise_cons.2 ⟨fun u hu => ?_, hkeys⟩
        rw [Window.hasKey_comm]
        exact hnew u hu
      · refine List.pairwise_cons.2
          ⟨fun u hu => ?_, ih (fun u hu => hnew u (List.mem_cons_of_mem _ hu)) hvs⟩
        rcases mem_insertWindow.1 hu with rfl | hu
        · exact hnew v List.mem_cons_self
        · exact hv u hu
  · rcases mem_insertWindow.1 hv with rfl | hv
    · exact hcloses
    · exact h.closes v hv

theorem removeWindow_sublist (station : Nat) (move : Byte) (ws : List Window) :
    (removeWindow station move ws).Sublist ws := List.filter_sublist

theorem removeWindow_lacks {station : Nat} {move : Byte} {ws : List Window} {v : Window}
    (h : v ∈ removeWindow station move ws) : v.hasKey station move = false := by
  simpa using (List.mem_filter.1 h).2

/-! ### The window step -/

/-- A close time set by R92 is not before the open time. -/
theorem heldTime_le_closeAfter (openTime closeTime : Nat) :
    heldTime openTime ≤ heldTime (closeAfter openTime closeTime) := by
  unfold closeAfter
  split
  · exact le_rfl
  · next h => exact not_lt.1 h

/-- What the settling of a window keeps and gives, whichever windows it is done to (R93, R97). -/
theorem settled_place {c : Config} {now arrival : Nat} {p : Prop} [Decidable p] {w v : Window}
    (h : (if p then
        match w.state with
        | .provisional => none
        | .live =>
          let w' := w.freezeAt c arrival
          if w'.runs now then some w' else none
        | .frozen => some w
      else some w) = some v) :
    v = w ∨ v = w.freezeAt c arrival := by
  split at h
  · split at h
    · cases h
    · dsimp only at h
      split at h
      · exact .inr (Option.some.inj h).symm
      · cases h
    · exact .inl (Option.some.inj h).symm
  · exact .inl (Option.some.inj h).symm

theorem Window.freezeAt_place (c : Config) (arrival : Nat) (w : Window) :
    (w.freezeAt c arrival).openTime = w.openTime ∧ (w.freezeAt c arrival).station = w.station ∧
      (w.freezeAt c arrival).move = w.move := ⟨rfl, rfl, rfl⟩

theorem ListLawful.settle {ws : List Window} (h : ListLawful ws) {c : Config} {arrival : Nat}
    {f : Window → Option Window} (hf : ∀ w v, f w = some v → v = w ∨ v = w.freezeAt c arrival) :
    ListLawful (ws.filterMap f) := by
  refine h.filterMap (fun w v hwv => ?_) fun w v hwv hw => ?_
  · rcases hf w v hwv with rfl | rfl
    · exact ⟨rfl, rfl, rfl⟩
    · exact w.freezeAt_place c arrival
  · rcases hf w v hwv with rfl | rfl
    · exact hw
    · exact heldTime_le_closeAfter _ _

theorem listLawful_settleOthers {ws : List Window} (h : ListLawful ws) (c : Config)
    (now arrival station : Nat) (move : Byte) :
    ListLawful (settleOthers c now arrival station move ws) := h.settle fun _ _ => settled_place

theorem listLawful_settleStation {ws : List Window} (h : ListLawful ws) (c : Config)
    (now arrival station : Nat) :
    ListLawful (settleStation c now arrival station ws) := h.settle fun _ _ => settled_place

/-- From `s` to `t` the window list is all that changes, but for a WINDOW-FULL raised. -/
abbrev OnlyWindows (s t : State) : Prop := Leaves (s.modWindows fun _ => t.windows) t

theorem onlyWindows_raiseFault (k : FaultKind) (ctx : FaultContext) (s : State) :
    OnlyWindows s (raiseFault k ctx s) := by
  rw [OnlyWindows, (keeps_raiseFault k ctx s).windows]
  exact leaves_raiseFault k ctx s

theorem onlyWindows_createWindow (w : Window) (s : State) : OnlyWindows s (createWindow w s) := by
  unfold createWindow
  split
  · exact Leaves.refl _
  · split
    · exact Leaves.refl _
    · split
      · exact Leaves.refl _
      · split
        · rw [OnlyWindows, (keeps_raiseFault _ _ _).windows]
          exact leaves_raiseFault _ _ _
        · exact onlyWindows_raiseFault _ _ s

/-- A window created, its key not in the list (R91): the capacity holds, as a full list first loses its
latest-opening window. -/
theorem createWindow_lawful (w : Window) (s : State) :
    (s.windows.length ≤ 32 → (createWindow w s).windows.length ≤ 32) ∧
      (ListLawful s.windows → (∀ v ∈ s.windows, v.hasKey w.station w.move = false) →
        heldTime w.openTime ≤ heldTime w.closeTime → ListLawful (createWindow w s).windows) := by
  unfold createWindow
  split
  · exact ⟨id, fun h _ _ => h⟩
  · split
    · next hroom =>
      exact ⟨fun _ => (length_insertWindow _ _).trans_le hroom,
        fun h hnew hc => h.insertWindow hnew hc⟩
    · next hfull =>
      split
      · next hlast =>
        rw [List.getLast?_eq_none_iff] at hlast
        exact absurd (by rw [hlast]; decide) hfull
      · split
        · rw [(keeps_raiseFault _ _ _).windows]
          refine ⟨fun hcap => ?_, fun h hnew hc => ?_⟩
          · simp only [State.modWindows_windows, length_insertWindow, List.length_dropLast]
            omega
          · exact (h.sublist (List.dropLast_sublist _)).insertWindow
              (fun v hv => hnew v ((List.dropLast_sublist _).subset hv)) hc
        · rw [(keeps_raiseFault _ _ _).windows]
          exact ⟨id, fun h _ _ => h⟩

/-- A window put in the place of the one of its key (R91). -/
theorem replaceWindow_lawful {w v : Window} {s : State} (hv : v ∈ s.windows)
    (hkey : v.hasKey w.station w.move = true) :
    (s.windows.length ≤ 32 → (replaceWindow w s).windows.length ≤ 32) ∧
      (ListLawful s.windows → heldTime w.openTime ≤ heldTime w.closeTime →
        ListLawful (replaceWindow w s).windows) := by
  have hlen : (removeWindow w.station w.move s.windows).length < s.windows.length :=
    List.length_filter_lt_length_iff_exists.2 ⟨v, hv, by simp [hkey]⟩
  unfold replaceWindow
  refine ⟨fun hcap => ?_, fun h hc => ?_⟩
  · simp only [State.modWindows_windows]
    split
    · exact (length_insertWindow _ _).trans_le (hlen.trans_le hcap)
    · exact hlen.le.trans hcap
  · have hsub := h.sublist (removeWindow_sublist w.station w.move s.windows)
    simp only [State.modWindows_windows]
    split
    · exact hsub.insertWindow (fun u hu => removeWindow_lacks hu) hc
    · exact hsub

/-- The step for an affecting frame is a creation or a replacement of one window (R94 to R96), whose
key is the frame's and whose close time is not before its open time. -/
theorem keyStep_cases (f : Frame) (arrival along : Nat) (across : Int) (delay : Nat) (s : State) :
    keyStep f arrival along across delay s = s ∨
    ∃ w : Window, w.station = f.station ∧ w.move = f.move ∧
      heldTime w.openTime ≤ heldTime w.closeTime ∧
      ((s.windows.find? (fun v => v.hasKey f.station f.move) = none ∧
          keyStep f arrival along across delay s = createWindow w s) ∨
        (∃ v, s.windows.find? (fun v => v.hasKey f.station f.move) = some v ∧
          keyStep f arrival along across delay s = replaceWindow w s)) := by
  unfold keyStep
  dsimp only
  split
  · next hfind => exact .inr ⟨_, rfl, rfl, heldTime_le_closeAfter _ _, .inl ⟨hfind, rfl⟩⟩
  · next hfind => exact .inr ⟨_, rfl, rfl, heldTime_le_closeAfter _ _, .inr ⟨_, hfind, rfl⟩⟩
  · next hfind => exact .inr ⟨_, rfl, rfl, heldTime_le_closeAfter _ _, .inl ⟨hfind, rfl⟩⟩
  · next hfind => exact .inr ⟨_, rfl, rfl, heldTime_le_closeAfter _ _, .inr ⟨_, hfind, rfl⟩⟩
  · next hfind => exact .inr ⟨_, rfl, rfl, heldTime_le_closeAfter _ _, .inl ⟨hfind, rfl⟩⟩
  · next hfind => exact .inr ⟨_, rfl, rfl, heldTime_le_closeAfter _ _, .inr ⟨_, hfind, rfl⟩⟩
  · exact .inl rfl
  · exact .inl rfl

theorem onlyWindows_keyStep (f : Frame) (arrival along : Nat) (across : Int) (delay : Nat)
    (s : State) : OnlyWindows s (keyStep f arrival along across delay s) := by
  obtain h | ⟨w, -, -, -, ⟨-, h⟩ | ⟨v, -, h⟩⟩ := keyStep_cases f arrival along across delay s
  · rw [h]; exact Leaves.refl s
  · rw [h]; exact onlyWindows_createWindow w s
  · rw [h]; exact Leaves.refl _

theorem keyStep_lawful (f : Frame) (arrival along : Nat) (across : Int) (delay : Nat)
    (s : State) :
    (s.windows.length ≤ 32 → (keyStep f arrival along across delay s).windows.length ≤ 32) ∧
      (ListLawful s.windows →
        ListLawful (keyStep f arrival along across delay s).windows) := by
  obtain h | ⟨w, hs, hm, hc, ⟨hfind, h⟩ | ⟨v, hfind, h⟩⟩ :=
    keyStep_cases f arrival along across delay s
  · rw [h]; exact ⟨id, id⟩
  · rw [h]
    obtain ⟨hlen, hkeep⟩ := createWindow_lawful w s
    refine ⟨hlen, fun hl => hkeep hl (fun v hv => ?_) hc⟩
    rw [hs, hm]
    exact Bool.eq_false_iff.2 (List.find?_eq_none.1 hfind v hv)
  · rw [h]
    have hkey : v.hasKey w.station w.move = true := by
      rw [hs, hm]
      exact List.find?_some (p := fun v : Window => v.hasKey f.station f.move) hfind
    obtain ⟨hlen, hkeep⟩ := replaceWindow_lawful (List.mem_of_find?_eq_some hfind) hkey
    exact ⟨hlen, fun hl => hkeep hl hc⟩

/-- The window step before the map is formed afresh. -/
def windowWrites (f : Frame) (arrival : Nat) (g : Option GeometryResult) (s : State) : State :=
  if f.hasGeometry then
    let s' := s.modWindows (settleOthers s.cfg s.now arrival f.station f.move)
    match g with
    | some (.affecting along across delay) => keyStep f arrival along across delay s'
    | some .notAffecting => s'.modWindows (removeWindow f.station f.move)
    | none => s'
  else s.modWindows (settleStation s.cfg s.now arrival f.station)

theorem windowStep_eq (f : Frame) (arrival : Nat) (g : Option GeometryResult) (s : State) :
    windowStep f arrival g s = rederive (windowWrites f arrival g s) := rfl

theorem onlyWindows_windowWrites (f : Frame) (arrival : Nat) (g : Option GeometryResult)
    (s : State) : OnlyWindows s (windowWrites f arrival g s) := by
  unfold windowWrites
  split
  · dsimp only
    split
    · exact onlyWindows_keyStep f arrival _ _ _
        (s.modWindows (settleOthers s.cfg s.now arrival f.station f.move))
    · exact Leaves.refl _
    · exact Leaves.refl _
  · exact Leaves.refl _

theorem windowWrites_lawful (f : Frame) (arrival : Nat) (g : Option GeometryResult) (s : State) :
    (s.windows.length ≤ 32 → (windowWrites f arrival g s).windows.length ≤ 32) ∧
      (ListLawful s.windows → ListLawful (windowWrites f arrival g s).windows) := by
  have hcap : s.windows.length ≤ 32 →
      (settleOthers s.cfg s.now arrival f.station f.move s.windows).length ≤ 32 :=
    (List.length_filterMap_le _ _).trans
  have hlaw : ListLawful s.windows →
      ListLawful (settleOthers s.cfg s.now arrival f.station f.move s.windows) :=
    fun h => listLawful_settleOthers h _ _ _ _ _
  unfold windowWrites
  split
  · dsimp only
    split
    · obtain ⟨hlen, hkeep⟩ := keyStep_lawful f arrival _ _ _
        (s.modWindows (settleOthers s.cfg s.now arrival f.station f.move))
      exact ⟨fun h => hlen (hcap h), fun h => hkeep (hlaw h)⟩
    · exact ⟨fun h => ((removeWindow_sublist _ _ _).length_le).trans (hcap h),
        fun h => (hlaw h).sublist (removeWindow_sublist _ _ _)⟩
    · exact ⟨hcap, hlaw⟩
  · exact ⟨(List.length_filterMap_le _ _).trans,
      fun h => listLawful_settleStation h _ _ _ _⟩

/-! ### The map -/

theorem length_deriveBins (base period : Nat) (ws : List Window) :
    (deriveBins base period ws).length = 32 := by simp [deriveBins]

/-- The map formed afresh is the one that the list and the base make (R101, R102). -/
theorem mapCurrent_of_derived {s : State}
    (h : s.quietMap.bins = deriveBins s.quietMap.base (binPeriod s.cfg) s.windows) :
    MapCurrent s := by
  refine ⟨by rw [h, length_deriveBins], fun k hk => ?_⟩
  have hbin : s.quietMap.bins[k]? =
      some (binAt s.quietMap.base (binPeriod s.cfg) s.windows k) := by
    simp [h, deriveBins, hk]
  rw [hbin, Option.some_inj]
  unfold binAt
  simp only [ite_eq_left_iff, reduceCtorEq, imp_false, Classical.not_not, List.any_eq_true,
    decide_eq_true_eq]

theorem mapCurrent_rederive (s : State) : MapCurrent (rederive s) := mapCurrent_of_derived rfl

/-- The map depends on the list, itself and the bin period alone. -/
theorem mapCurrent_congr {s t : State} (hw : t.windows = s.windows)
    (hm : t.quietMap = s.quietMap) (hp : binPeriod t.cfg = binPeriod s.cfg) :
    MapCurrent s → MapCurrent t := by
  unfold MapCurrent
  rw [hw, hm, hp]
  exact id

end Sys2Proof.Machine
end

section
/-! SUPPORT. What a command's own writes keep: the surroundings, the offset, the tables, the ranges, the
orders and the map. -/

namespace Sys2Proof.Machine

/-! ### The intake's writes -/

/-- The map formed afresh after the list alone has changed. -/
theorem OnlyWindows.leaves_rederive {s t : State} (h : OnlyWindows s t) :
    Leaves { s with windows := t.windows, quietMap := (rederive t).quietMap } (rederive t) :=
  { pending := h.pending, now := h.now, pins := h.pins, port := h.port, cfg := h.cfg
    offset := h.offset, stays := h.stays, neighbours := h.neighbours, wind := h.wind
    windows := .inl ⟨rfl, rfl⟩
    queue := h.queue, log := h.log, buffer := h.buffer, collisions := h.collisions }

/-- What an intake completion writes of its own. -/
abbrev intakeWrites (f : Frame) (arrival : Nat) (g : Option GeometryResult) (s : State) : State :=
  windowStep f arrival g (tableStep f arrival g (s.withIntake none))

/-- An intake completion's own writes, but for the table, the list and the map, are a frame. -/
theorem leaves_intakeWrites (f : Frame) (arrival : Nat) (g : Option GeometryResult) (s : State) :
    Leaves { s with
      neighbours := (intakeWrites f arrival g s).neighbours
      windows := (intakeWrites f arrival g s).windows
      quietMap := (intakeWrites f arrival g s).quietMap } (intakeWrites f arrival g s) := by
  have h1 := leaves_tableStep f arrival g (s.withIntake none)
  have h2 := (onlyWindows_windowWrites f arrival g
    (tableStep f arrival g (s.withIntake none))).leaves_rederive
  rw [← windowStep_eq] at h2
  exact
    { pending := h2.pending.trans h1.pending, now := h2.now.trans h1.now
      pins := h2.pins.trans h1.pins, port := h2.port.trans h1.port, cfg := h2.cfg.trans h1.cfg
      offset := h2.offset.trans h1.offset
      stays := fun h => h2.stays (h1.stays h)
      neighbours := .inl rfl
      wind := by
        rcases h2.wind with hw | hw
        · rw [hw]
          exact h1.wind.imp_right fun ⟨hp, he⟩ => ⟨h2.stays hp, he⟩
        · exact .inr hw
      windows := .inl ⟨rfl, rfl⟩
      queue := h2.queue.trans h1.queue
      log := fun h => h1.cfg ▸ h2.log (h1.cfg ▸ h1.log h)
      buffer := h2.buffer.trans h1.buffer
      collisions := fun h => h2.collisions (h1.collisions h) }

/-- The lists after an intake completion: within capacity, in order (R55, R89, R91). -/
theorem intakeWrites_lawful (f : Frame) (arrival : Nat) (g : Option GeometryResult) (s : State) :
    ((s.neighbours.length ≤ 48 → (intakeWrites f arrival g s).neighbours.length ≤ 48) ∧
      (Ascending s.neighbours → Ascending (intakeWrites f arrival g s).neighbours)) ∨
      (intakeWrites f arrival g s).neighbours = [] := by
  have h1 := tableStep_lawful f arrival g (s.withIntake none)
  rcases (onlyWindows_windowWrites f arrival g
    (tableStep f arrival g (s.withIntake none))).neighbours with h | ⟨-, h⟩
  · left
    change (s.neighbours.length ≤ 48 → (windowWrites f arrival g _).neighbours.length ≤ 48) ∧
      (Ascending s.neighbours → Ascending (windowWrites f arrival g _).neighbours)
    rw [h]
    exact h1
  · exact .inr h

/-- A table step leaves the window list alone. -/
theorem tableStep_windows (f : Frame) (arrival : Nat) (g : Option GeometryResult) (s : State) :
    (tableStep f arrival g s).windows = s.windows := by
  rcases tableStep_cases f arrival g s with h | ⟨ctx, h⟩
  · rw [h]; rfl
  · rw [h, (keeps_raiseFault _ _ s).windows]

theorem intakeWrites_windows (f : Frame) (arrival : Nat) (g : Option GeometryResult) (s : State) :
    (s.windows.length ≤ 32 → (intakeWrites f arrival g s).windows.length ≤ 32) ∧
      (ListLawful s.windows → ListLawful (intakeWrites f arrival g s).windows) := by
  have h := windowWrites_lawful f arrival g (tableStep f arrival g (s.withIntake none))
  rw [tableStep_windows] at h
  exact h

/-! ### The surroundings -/

/-- The time, the configuration and the lines after a command, as the claims put them. -/
def Surroundings (c : Instr) (s u : State) : Prop :=
  u.pending = s.pending ∧
    (match c with
      | .localTimeTick => u.now = min (s.now + 1) (2 ^ 40 - 1)
      | .hardwareReset _ => u.now = 0
      | _ => u.now = s.now) ∧
    (match c with
      | .configure _ | .hardwareReset _ => True
      | _ => u.cfg = s.cfg) ∧
    (match c with
      | .stormLineEvent high => u.pins = { s.pins with storm := high }
      | .lsdAsserted => u.pins = { s.pins with light := true }
      | .lsdDeasserted => u.pins = { s.pins with light := false }
      | .laneActivity => u.pins = { s.pins with laneActive := true }
      | .laneQuiet => u.pins = { s.pins with laneActive := false }
      | _ => u.pins = s.pins)

theorem applyConfig_keeps (c : Config) (s : State) :
    (applyConfig c s).pending = s.pending ∧ (applyConfig c s).now = s.now ∧
      (applyConfig c s).pins = s.pins ∧ (applyConfig c s).engine = s.engine ∧
      (applyConfig c s).neighbours = s.neighbours ∧ (applyConfig c s).windows = s.windows ∧
      (applyConfig c s).wind = s.wind ∧ (applyConfig c s).queue = s.queue ∧
      (applyConfig c s).link = s.link ∧ (applyConfig c s).cfg = c ∧
      (applyConfig c s).log.records = s.log.records ∧ (applyConfig c s).part = s.part := by
  unfold applyConfig
  dsimp only
  split <;> split <;> exact ⟨rfl, rfl, rfl, rfl, rfl, rfl, rfl, rfl, rfl, rfl, rfl, rfl⟩

theorem begins_surroundings {c : Instr} {s u : State} (h : Begins c s u) : Surroundings c s u := by
  cases c with
  | hardwareReset b => subst h; exact ⟨rfl, rfl, trivial, rfl⟩
  | configure r =>
    rcases h with rfl | ⟨-, rfl⟩
    · exact ⟨rfl, rfl, trivial, rfl⟩
    · obtain ⟨hpending, hnow, hpins, _⟩ := applyConfig_keeps (storeConfig r s.cfg) s
      exact ⟨hpending, hnow, trivial, hpins⟩
  | start offset => rcases h with rfl | ⟨-, rfl⟩ <;> exact ⟨rfl, rfl, rfl, rfl⟩
  | submit => rcases h with rfl | ⟨-, r, rfl⟩ <;> exact ⟨rfl, rfl, rfl, rfl⟩
  | submitSweep => rcases h with rfl | ⟨-, r, rfl⟩ <;> exact ⟨rfl, rfl, rfl, rfl⟩
  | ended => rcases h with rfl | ⟨-, -, rfl⟩ <;> exact ⟨rfl, rfl, rfl, rfl⟩
  | frameReceived => rcases h with rfl | ⟨-, a, rfl⟩ <;> exact ⟨rfl, rfl, rfl, rfl⟩
  | intakeCompletion =>
    rcases h with rfl | ⟨f, arrival, g, rfl⟩
    · exact ⟨rfl, rfl, rfl, rfl⟩
    · have k := leaves_intakeWrites f arrival g s
      exact ⟨k.pending, k.now, k.cfg, k.pins⟩
  | binBoundary => rcases h with rfl | ⟨base, boundary, rfl⟩ <;> exact ⟨rfl, rfl, rfl, rfl⟩
  | wind | takeOutcomes | clearLost | entryExpiry | windowClose | windStalenessExpiry =>
    rcases h with rfl | rfl <;> exact ⟨rfl, rfl, rfl, rfl⟩
  | _ => subst h; exact ⟨rfl, rfl, rfl, rfl⟩

/-- Only a port command, TRANSACTION_END and reset write the port. -/
theorem begins_port {c : Instr} {s u : State} (h : Begins c s u) (hr : ∀ b, c ≠ .hardwareReset b) :
    u.port = s.port := by
  cases c with
  | hardwareReset b => exact absurd rfl (hr b)
  | configure r =>
    rcases h with rfl | ⟨-, rfl⟩
    · rfl
    · unfold applyConfig
      dsimp only
      split <;> split <;> rfl
  | start offset => rcases h with rfl | ⟨-, rfl⟩ <;> rfl
  | submit => rcases h with rfl | ⟨-, r, rfl⟩ <;> rfl
  | submitSweep => rcases h with rfl | ⟨-, r, rfl⟩ <;> rfl
  | ended => rcases h with rfl | ⟨-, -, rfl⟩ <;> rfl
  | frameReceived => rcases h with rfl | ⟨-, a, rfl⟩ <;> rfl
  | intakeCompletion =>
    rcases h with rfl | ⟨f, arrival, g, rfl⟩
    · rfl
    · exact (leaves_intakeWrites f arrival g s).port
  | binBoundary => rcases h with rfl | ⟨base, boundary, rfl⟩ <;> rfl
  | wind | takeOutcomes | clearLost | entryExpiry | windowClose | windStalenessExpiry =>
    rcases h with rfl | rfl <;> rfl
  | _ => subst h; rfl

theorem Surroundings.leaves {c : Instr} {s u t : State} (h : Surroundings c s u)
    (k : Leaves u t) : Surroundings c s t := by
  obtain ⟨hpending, hnow, hcfg, hpins⟩ := h
  refine ⟨k.pending.trans hpending, ?_, ?_, ?_⟩
  · rw [k.now]; exact hnow
  · rw [k.cfg]; exact hcfg
  · rw [k.pins]; exact hpins

/-! ### The offset -/

/-- The current offset after a command (R7). -/
def OffsetTaken (c : Instr) (s : State) (offset : Int) : Prop :=
  match c with
  | .start given => offset = s.engine.offset ∨
      (s.part = .config ∧ offset = max (-300) (min 300 given.toInt))
  | .ended tag achieved => offset = s.engine.offset ∨
      (s.engine.state = .moving ∧ s.engine.grant.map Grant.tag = some tag ∧
        offset = max (-300) (min 300 achieved.toInt))
  | .hardwareReset _ => offset = 0
  | _ => offset = s.engine.offset

theorem begins_offset {c : Instr} {s u : State} (h : Begins c s u) :
    OffsetTaken c s u.engine.offset := by
  cases c with
  | hardwareReset b => subst h; rfl
  | configure r =>
    rcases h with rfl | ⟨-, rfl⟩
    · rfl
    · obtain ⟨_, _, _, hengine, _⟩ := applyConfig_keeps (storeConfig r s.cfg) s
      exact congrArg Engine.offset hengine
  | start offset =>
    rcases h with rfl | ⟨hpart, rfl⟩
    · exact .inl rfl
    · exact .inr ⟨hpart, rfl⟩
  | ended tag achieved =>
    rcases h with rfl | ⟨hstate, hgrant, rfl⟩
    · exact .inl rfl
    · exact .inr ⟨hstate, hgrant, rfl⟩
  | submit => rcases h with rfl | ⟨-, r, rfl⟩ <;> rfl
  | submitSweep => rcases h with rfl | ⟨-, r, rfl⟩ <;> rfl
  | frameReceived => rcases h with rfl | ⟨-, a, rfl⟩ <;> rfl
  | intakeCompletion =>
    rcases h with rfl | ⟨f, arrival, g, rfl⟩
    · rfl
    · exact (leaves_intakeWrites f arrival g s).offset
  | binBoundary => rcases h with rfl | ⟨base, boundary, rfl⟩ <;> rfl
  | wind | takeOutcomes | clearLost | entryExpiry | windowClose | windStalenessExpiry =>
    rcases h with rfl | rfl <;> rfl
  | _ => subst h; rfl

/-! ### The tables -/

/-- The table, the list and the wind record after a command's own writes (R53, R62, R89, R98, R9). -/
theorem begins_tables {c : Instr} {s u : State} (h : Begins c s u) :
    ((c = .intakeCompletion ∨ ∃ n, c = .entryExpiry n) ∨ u.neighbours = s.neighbours ∨
      (u.part = .config ∧ u.neighbours = [])) ∧
    ((c = .intakeCompletion ∨ ∃ n m, c = .windowClose n m) ∨ u.windows = s.windows ∨
      (u.part = .config ∧ u.windows = [])) ∧
    ((c = .windStalenessExpiry ∨ ∃ d v, c = .wind d v) ∨ u.wind = s.wind ∨
      (u.part = .config ∧ u.wind = WindRecord.clear)) := by
  cases c with
  | hardwareReset b => subst h; exact ⟨.inr (.inr ⟨rfl, rfl⟩), .inr (.inr ⟨rfl, rfl⟩), .inr (.inr ⟨rfl, rfl⟩)⟩
  | configure r =>
    rcases h with rfl | ⟨-, rfl⟩
    · exact ⟨.inr (.inl rfl), .inr (.inl rfl), .inr (.inl rfl)⟩
    · obtain ⟨_, _, _, _, hneighbours, hwindows, hwind, _⟩ :=
        applyConfig_keeps (storeConfig r s.cfg) s
      exact ⟨.inr (.inl hneighbours), .inr (.inl hwindows), .inr (.inl hwind)⟩
  | start offset =>
    rcases h with rfl | ⟨-, rfl⟩ <;>
      exact ⟨.inr (.inl rfl), .inr (.inl rfl), .inr (.inl rfl)⟩
  | submit =>
    rcases h with rfl | ⟨-, r, rfl⟩ <;>
      exact ⟨.inr (.inl rfl), .inr (.inl rfl), .inr (.inl rfl)⟩
  | submitSweep =>
    rcases h with rfl | ⟨-, r, rfl⟩ <;>
      exact ⟨.inr (.inl rfl), .inr (.inl rfl), .inr (.inl rfl)⟩
  | ended =>
    rcases h with rfl | ⟨-, -, rfl⟩ <;>
      exact ⟨.inr (.inl rfl), .inr (.inl rfl), .inr (.inl rfl)⟩
  | frameReceived =>
    rcases h with rfl | ⟨-, a, rfl⟩ <;>
      exact ⟨.inr (.inl rfl), .inr (.inl rfl), .inr (.inl rfl)⟩
  | intakeCompletion =>
    refine ⟨.inl (.inl rfl), .inl (.inl rfl), .inr ?_⟩
    rcases h with rfl | ⟨f, arrival, g, rfl⟩
    · exact .inl rfl
    · exact (leaves_intakeWrites f arrival g s).wind
  | entryExpiry n =>
    rcases h with rfl | rfl <;>
      exact ⟨.inl (.inr ⟨n, rfl⟩), .inr (.inl rfl), .inr (.inl rfl)⟩
  | windowClose n m =>
    rcases h with rfl | rfl <;>
      exact ⟨.inr (.inl rfl), .inl (.inr ⟨n, m, rfl⟩), .inr (.inl rfl)⟩
  | binBoundary =>
    rcases h with rfl | ⟨base, boundary, rfl⟩ <;>
      exact ⟨.inr (.inl rfl), .inr (.inl rfl), .inr (.inl rfl)⟩
  | wind d v =>
    rcases h with rfl | rfl <;>
      exact ⟨.inr (.inl rfl), .inr (.inl rfl), .inl (.inr ⟨d, v, rfl⟩)⟩
  | windStalenessExpiry =>
    rcases h with rfl | rfl <;> exact ⟨.inr (.inl rfl), .inr (.inl rfl), .inl (.inl rfl)⟩
  | takeOutcomes | clearLost =>
    rcases h with rfl | rfl <;>
      exact ⟨.inr (.inl rfl), .inr (.inl rfl), .inr (.inl rfl)⟩
  | _ => subst h; exact ⟨.inr (.inl rfl), .inr (.inl rfl), .inr (.inl rfl)⟩

/-- A list kept or emptied stays so through a frame. -/
theorem kept_or_emptied {α : Type} {special : Prop} {x y z e : α} {cfgU cfgT : Prop}
    (h : special ∨ y = x ∨ (cfgU ∧ y = e)) (k : z = y ∨ (cfgT ∧ z = e)) (stays : cfgU → cfgT) :
    special ∨ z = x ∨ (cfgT ∧ z = e) := by
  rcases h with h | rfl | ⟨hc, rfl⟩
  · exact .inl h
  · exact .inr k
  · rcases k with rfl | k
    · exact .inr (.inr ⟨stays hc, rfl⟩)
    · exact .inr (.inr k)

/-! ### The ranges -/

theorem clampNat_mem {lo hi : Nat} (h : lo ≤ hi) (x : Nat) :
    lo ≤ clampNat lo hi x ∧ clampNat lo hi x ≤ hi := by
  unfold clampNat
  omega

theorem clampNat_le {lo hi : Nat} (h : lo ≤ hi) (x : Nat) : clampNat lo hi x ≤ hi :=
  (clampNat_mem h x).2

theorem clampOffset_mem (x : Int) : -300 ≤ clampOffset x ∧ clampOffset x ≤ 300 := by
  unfold clampOffset clampInt
  omega

theorem clampLimit_mem (limit : Nat) (x : Int) :
    -(limit : Int) ≤ clampLimit limit x ∧ clampLimit limit x ≤ limit := by
  unfold clampLimit clampInt
  omega

/-- A stored code lies in its set if the one kept does. -/
theorem storeCode_le {bound kept : Nat} (b : Byte) (h : kept ≤ bound) :
    storeCode (bound + 1) b kept ≤ bound := by
  unfold storeCode
  split
  · omega
  · exact h

/-- What CONFIGURE stores is in its range (R190). -/
theorem configInRange_storeConfig (r : ConfigWire) {s t : State} (h : ConfigInRange s)
    (ht : t.cfg = storeConfig r s.cfg) : ConfigInRange t := by
  obtain ⟨hstation, _, _, _, _, _, _, _, _, _, _, _, _, _, _, _, hstart, _, _, _, _, _, hperiod, _⟩ :=
    h
  unfold ConfigInRange
  rw [ht]
  refine ⟨?_, clampNat_le (by decide) _, clampNat_le (by decide) _, clampNat_mem (by decide) _,
    clampNat_mem (by decide) _, clampNat_mem (by decide) _, clampNat_mem (by decide) _,
    clampNat_le (by decide) _, clampNat_le (by decide) _, clampNat_mem (by decide) _,
    clampNat_le (by decide) _, clampNat_le (by decide) _, clampNat_mem (by decide) _,
    clampNat_mem (by decide) _, clampNat_mem (by decide) _, clampNat_mem (by decide) _,
    storeCode_le _ hstart, clampNat_le (by decide) _, clampNat_mem (by decide) _,
    clampNat_le (Nat.zero_le _) _, clampNat_mem (by decide) _, clampNat_mem (by decide) _,
    storeCode_le _ hperiod, clampNat_mem (by decide) _, clampNat_le (by decide) _,
    clampNat_mem (by decide) _, clampNat_mem (by decide) _, clampLimit_mem _ _⟩
  unfold storeConfig
  dsimp only
  split
  · next h => exact h.2
  · exact hstation

/-- The capacities and ranges, together. -/
def InRanges (s : State) : Prop :=
  WithinCapacity s ∧ ConfigInRange s ∧ OffsetAndTimeInRange s ∧ WindRecordLawful s ∧
    LostMeansFull s

/-- The reset values lie in their ranges (R194). -/
theorem inRanges_reset : InRanges State.reset := by
  refine ⟨?_, ?_, ?_, ?_, ?_⟩
  · unfold WithinCapacity; decide
  · unfold ConfigInRange; decide
  · unfold OffsetAndTimeInRange; decide
  · unfold WindRecordLawful; decide
  · unfold LostMeansFull; decide

/-- A reading is folded and clamped into its range (R10). -/
theorem windRecordLawful_takeWind (direction speed : W16) (s : State) :
    WindRecordLawful (takeWind direction speed s) := by
  have hfold : direction.toNat % 1024 < 1024 := Nat.mod_lt _ (by decide)
  unfold WindRecordLawful
  simp only [takeWind, State.modWind_wind, reduceCtorEq, false_imp_iff, implies_true, and_true,
    min_le_right]
  omega

/-- A record that goes STALE keeps D and U, and its timer stops (R11). -/
theorem windRecordLawful_stale {s : State} (h : WindRecordLawful s) :
    WindRecordLawful (s.modWind fun w => { w with condition := .stale, staleness := none }) := by
  obtain ⟨hd, hu, -, -⟩ := h
  unfold WindRecordLawful
  simp only [State.modWind_wind, reduceCtorEq, false_imp_iff, Option.isSome_none, hd, hu,
    Bool.false_eq_true, and_true]

/-- A take under HOLD clears LOST unless the log stays full; under DROP LOST says nothing. -/
theorem logLawful_takeRecords (k : Nat) {s : State} (h : LogLawful s.cfg s.log) :
    LogLawful s.cfg (takeRecords k s).log := by
  obtain ⟨hcap, hfull⟩ := h
  unfold takeRecords
  refine ⟨?_, fun hhold hlost => ?_⟩
  · simp only [State.modLog_log, List.length_drop]
    omega
  · simp only [State.modLog_log, List.length_drop] at hlost ⊢
    split at hlost
    · cases hlost
    · next hcond =>
      have := hfull hhold hlost
      simp only [hhold, true_and, not_and, not_lt] at hcond
      omega

@[simp] theorem length_placeRequest (r : Request) (q : List Request) :
    (placeRequest r q).length = q.length + 1 := by
  have hsplit : ∀ l : List Request, (priorities l).length + (normals l).length = l.length := by
    intro l
    induction l with
    | nil => rfl
    | cons x xs ih =>
      unfold priorities normals at *
      cases hc : x.cls <;> simp [hc] <;> omega
  unfold placeRequest
  split
  · simp
  · split
    · rfl
    · next h rest =>
      split
      · simp only [List.length_cons, List.length_append]
        have := hsplit rest
        omega
      · dsimp only
        simp only [List.length_append, List.length_cons]
        have := hsplit ((if h.cls = .normal then h.at .queued else h) :: rest)
        simp only [List.length_cons] at this
        omega

/-- A log whose LOST is cleared. -/
theorem logLawful_clear {c : Config} {l : OutcomeLog} (h : l.records.length ≤ 16) :
    LogLawful c { l with lost := false } := ⟨h, fun _ hlost => nomatch hlost⟩

theorem logLawful_applyConfig (c : Config) {s : State} (h : s.log.records.length ≤ 16) :
    LogLawful c (applyConfig c s).log := by
  unfold applyConfig
  dsimp only
  split
  · split <;> exact logLawful_clear h
  · next hnot =>
    have hlog : (if s.cfg.periodCode = c.periodCode then s.withConfig c
        else alignMap (s.withConfig c)).log = s.log := by split <;> rfl
    rw [hlog]
    exact ⟨h, fun hhold _ => not_lt.1 fun hlt => hnot ⟨hhold, hlt⟩⟩

/-- What every command writes of its own stays in the ranges. -/
theorem begins_inRanges {c : Instr} {s u : State} (h : Begins c s u) (hs : InRanges s) :
    InRanges u := by
  have hs' := hs
  obtain ⟨⟨hn, hw, hq, hl, hb, hcol⟩, hcfg, ⟨hlo, hhi, hnow⟩, hwind, hlost⟩ := hs'
  cases c with
  | hardwareReset b =>
    subst h
    exact inRanges_reset
  | localTimeTick =>
    subst h
    exact ⟨⟨hn, hw, hq, hl, hb, hcol⟩, hcfg, ⟨hlo, hhi, min_le_right _ _⟩, hwind, hlost⟩
  | configure r =>
    rcases h with rfl | ⟨-, rfl⟩
    · exact hs
    · obtain ⟨_, ka, _, ke, kn, kw, kwind, kq, klink, kcfg, krec, _⟩ :=
        applyConfig_keeps (storeConfig r s.cfg) s
      have hlog := logLawful_applyConfig (storeConfig r s.cfg) hl
      refine ⟨⟨by rw [kn]; exact hn, by rw [kw]; exact hw, by rw [kq]; exact hq, hlog.1,
        by rw [klink]; exact hb, by rw [klink]; exact hcol⟩, configInRange_storeConfig r hcfg kcfg,
        ⟨by rw [ke]; exact hlo, by rw [ke]; exact hhi, by rw [ka]; exact hnow⟩, ?_, ?_⟩
      · unfold WindRecordLawful
        rw [kwind]
        exact hwind
      · unfold LostMeansFull
        rw [kcfg]
        exact hlog.2
  | start offset =>
    rcases h with rfl | ⟨-, rfl⟩
    · exact hs
    · obtain ⟨h1, h2⟩ := clampOffset_mem offset.toInt
      exact ⟨⟨hn, hw, hq, hl, hb, hcol⟩, hcfg, ⟨h1, h2, hnow⟩, hwind, hlost⟩
  | wind d v =>
    rcases h with rfl | rfl
    · exact hs
    · exact ⟨⟨hn, hw, hq, hl, hb, hcol⟩, hcfg, ⟨hlo, hhi, hnow⟩,
        windRecordLawful_takeWind d v s, hlost⟩
  | submit =>
    rcases h with rfl | ⟨hroom, r, rfl⟩
    · exact hs
    · exact ⟨⟨hn, hw, (length_placeRequest _ _).trans_le hroom, hl, hb, hcol⟩, hcfg,
        ⟨hlo, hhi, hnow⟩, hwind, hlost⟩
  | submitSweep =>
    rcases h with rfl | ⟨hroom, r, rfl⟩
    · exact hs
    · exact ⟨⟨hn, hw, (length_placeRequest _ _).trans_le hroom, hl, hb, hcol⟩, hcfg,
        ⟨hlo, hhi, hnow⟩, hwind, hlost⟩
  | ended tag achieved =>
    rcases h with rfl | ⟨-, -, rfl⟩
    · exact hs
    · obtain ⟨h1, h2⟩ := clampOffset_mem achieved.toInt
      exact ⟨⟨hn, hw, hq, hl, hb, hcol⟩, hcfg, ⟨h1, h2, hnow⟩, hwind, hlost⟩
  | takeOutcomes n =>
    rcases h with rfl | rfl
    · exact hs
    · have hlog := logLawful_takeRecords (takeCount n s) (s := s) ⟨hl, hlost⟩
      exact ⟨⟨hn, hw, hq, hlog.1, hb, hcol⟩, hcfg, ⟨hlo, hhi, hnow⟩, hwind, hlog.2⟩
  | clearLost =>
    rcases h with rfl | rfl
    · exact hs
    · exact ⟨⟨hn, hw, hq, hl, hb, hcol⟩, hcfg, ⟨hlo, hhi, hnow⟩, hwind,
        (logLawful_clear hl).2⟩
  | frameReceived =>
    rcases h with rfl | ⟨hroom, a, rfl⟩
    · exact hs
    · exact ⟨⟨hn, hw, hq, hl, by simpa using hroom, hcol⟩, hcfg, ⟨hlo, hhi, hnow⟩, hwind, hlost⟩
  | intakeCompletion =>
    rcases h with rfl | ⟨f, arrival, g, rfl⟩
    · exact hs
    · have k := leaves_intakeWrites f arrival g s
      have hlog := k.log ⟨hl, hlost⟩
      refine ⟨⟨?_, (intakeWrites_windows f arrival g s).1 hw, k.queue.trans hq, hlog.1,
        k.buffer.trans hb, k.collisions hcol⟩, ?_, ?_, ?_, ?_⟩
      · rcases intakeWrites_lawful f arrival g s with ⟨hlen, _⟩ | hnil
        · exact hlen hn
        · exact (congrArg List.length hnil).trans_le (Nat.zero_le _)
      · unfold ConfigInRange
        rw [k.cfg]
        exact hcfg
      · unfold OffsetAndTimeInRange
        rw [k.offset, k.now]
        exact ⟨hlo, hhi, hnow⟩
      · unfold WindRecordLawful
        rcases k.wind with hkw | ⟨-, hkw⟩
        · rw [hkw]; exact hwind
        · rw [hkw]; decide
      · unfold LostMeansFull
        rw [k.cfg]
        exact hlog.2
  | entryExpiry n =>
    rcases h with rfl | rfl
    · exact hs
    · exact ⟨⟨(length_removeNeighbour_le _ _).trans hn, hw, hq, hl, hb, hcol⟩, hcfg,
        ⟨hlo, hhi, hnow⟩, hwind, hlost⟩
  | windowClose n m =>
    rcases h with rfl | rfl
    · exact hs
    · exact ⟨⟨hn, (removeWindow_sublist _ _ _).length_le.trans hw, hq, hl, hb, hcol⟩, hcfg,
        ⟨hlo, hhi, hnow⟩, hwind, hlost⟩
  | binBoundary => rcases h with rfl | ⟨base, boundary, rfl⟩ <;> exact hs
  | windStalenessExpiry =>
    rcases h with rfl | rfl
    · exact hs
    · exact ⟨⟨hn, hw, hq, hl, hb, hcol⟩, hcfg, ⟨hlo, hhi, hnow⟩,
        windRecordLawful_stale hwind, hlost⟩
  | _ => subst h; exact hs

/-- A frame keeps the ranges. -/
theorem InRanges.leaves {s t : State} (hs : InRanges s) (k : Leaves s t) : InRanges t := by
  obtain ⟨⟨hn, hw, hq, hl, hb, hcol⟩, hcfg, ⟨hlo, hhi, hnow⟩, hwind, hlost⟩ := hs
  have hlog := k.log ⟨hl, hlost⟩
  refine ⟨⟨?_, ?_, k.queue.trans hq, hlog.1, k.buffer.trans hb, k.collisions hcol⟩, ?_, ?_, ?_, ?_⟩
  · rcases k.neighbours with h | ⟨-, h⟩ <;> rw [h]
    · exact hn
    · exact Nat.zero_le _
  · rcases k.windows with ⟨h, -⟩ | ⟨-, h, -⟩ <;> rw [h]
    · exact hw
    · exact Nat.zero_le _
  · unfold ConfigInRange
    rw [k.cfg]
    exact hcfg
  · unfold OffsetAndTimeInRange
    rw [k.offset, k.now]
    exact ⟨hlo, hhi, hnow⟩
  · unfold WindRecordLawful
    rcases k.wind with h | ⟨-, h⟩ <;> rw [h]
    · exact hwind
    · decide
  · unfold LostMeansFull
    rw [k.cfg]
    exact hlog.2

/-! ### The orders and the map -/

/-- Table and list in order, and the map as they make it. -/
def InOrder (s : State) : Prop := TableOrdered s ∧ WindowsOrdered s ∧ MapCurrent s

theorem windowsOrdered_iff (s : State) : WindowsOrdered s ↔ ListLawful s.windows :=
  ⟨fun ⟨a, b, c⟩ => ⟨a, b, c⟩, fun ⟨a, b, c⟩ => ⟨a, b, c⟩⟩

/-- The part's map with a CLEAR bin everywhere is the one an empty list makes. -/
theorem mapCurrent_of_empty {s : State} (hw : s.windows = [])
    (hm : s.quietMap.bins = List.replicate 32 .clear) : MapCurrent s :=
  mapCurrent_of_derived (by rw [hw, deriveBins_nil, hm])

theorem inOrder_reset : InOrder State.reset :=
  ⟨List.Pairwise.nil, ⟨List.Pairwise.nil, List.Pairwise.nil, nofun⟩, mapCurrent_of_empty rfl rfl⟩

/-- A change of the record that keeps the P code keeps the bin period; any other one re-aligns the map
(R110). -/
theorem mapCurrent_applyConfig (c : Config) {s : State} (h : MapCurrent s) :
    MapCurrent (applyConfig c s) := by
  have hmap : MapCurrent (if s.cfg.periodCode = c.periodCode then s.withConfig c
      else alignMap (s.withConfig c)) := by
    split
    · next hp =>
      refine mapCurrent_congr (s := s) rfl rfl ?_ h
      unfold binPeriod
      rw [State.withConfig_cfg, hp]
    · exact mapCurrent_rederive _
  unfold applyConfig
  dsimp only
  split
  · exact hmap
  · exact hmap

theorem begins_inOrder {c : Instr} {s u : State} (h : Begins c s u) (hs : InOrder s) :
    InOrder u := by
  have hs' := hs
  obtain ⟨htable, hwindows, hmap⟩ := hs'
  cases c with
  | hardwareReset b =>
    subst h
    exact inOrder_reset
  | configure r =>
    rcases h with rfl | ⟨-, rfl⟩
    · exact hs
    · obtain ⟨_, _, _, _, hn, hw, _⟩ := applyConfig_keeps (storeConfig r s.cfg) s
      refine ⟨?_, ?_, mapCurrent_applyConfig _ hmap⟩
      · unfold TableOrdered
        rw [hn]
        exact htable
      · unfold WindowsOrdered
        rw [hw]
        exact hwindows
  | start offset => rcases h with rfl | ⟨-, rfl⟩ <;> exact hs
  | submit => rcases h with rfl | ⟨-, r, rfl⟩ <;> exact hs
  | submitSweep => rcases h with rfl | ⟨-, r, rfl⟩ <;> exact hs
  | ended => rcases h with rfl | ⟨-, -, rfl⟩ <;> exact hs
  | frameReceived => rcases h with rfl | ⟨-, a, rfl⟩ <;> exact hs
  | intakeCompletion =>
    rcases h with rfl | ⟨f, arrival, g, rfl⟩
    · exact hs
    · refine ⟨?_, ?_, mapCurrent_rederive _⟩
      · rcases intakeWrites_lawful f arrival g s with ⟨-, hkeep⟩ | hnil
        · exact hkeep htable
        · unfold TableOrdered
          rw [hnil]
          exact List.Pairwise.nil
      · exact (windowsOrdered_iff _).2
          ((intakeWrites_windows f arrival g s).2 ((windowsOrdered_iff s).1 hwindows))
  | entryExpiry n =>
    rcases h with rfl | rfl
    · exact hs
    · exact ⟨ascending_filter htable _, hwindows, hmap⟩
  | windowClose n m =>
    rcases h with rfl | rfl
    · exact hs
    · exact ⟨htable, (windowsOrdered_iff _).2
        (((windowsOrdered_iff s).1 hwindows).sublist (removeWindow_sublist _ _ _)),
        mapCurrent_rederive _⟩
  | binBoundary =>
    rcases h with rfl | ⟨base, boundary, rfl⟩
    · exact hs
    · exact ⟨htable, hwindows, mapCurrent_rederive _⟩
  | wind | takeOutcomes | clearLost | windStalenessExpiry => rcases h with rfl | rfl <;> exact hs
  | _ => subst h; exact hs

theorem InOrder.leaves {s t : State} (hs : InOrder s) (k : Leaves s t) : InOrder t := by
  obtain ⟨htable, hwindows, hmap⟩ := hs
  refine ⟨?_, ?_, ?_⟩
  · unfold TableOrdered
    rcases k.neighbours with h | ⟨-, h⟩ <;> rw [h]
    · exact htable
    · exact List.Pairwise.nil
  · unfold WindowsOrdered
    rcases k.windows with ⟨h, -⟩ | ⟨-, h, -⟩ <;> rw [h]
    · exact hwindows
    · exact ⟨List.Pairwise.nil, List.Pairwise.nil, nofun⟩
  · rcases k.windows with ⟨hw, hm⟩ | ⟨-, hw, hm⟩
    · exact mapCurrent_congr hw hm (congrArg binPeriod k.cfg) hmap
    · exact mapCurrent_of_empty hw (congrArg QuietMap.bins hm)

/-! ### Steps -/

/-- What every command keeps, whatever its answer on the port, every step keeps. -/
theorem kept_of_exec {p : State → Prop} (hpending : ∀ s q, p s → p (s.withPending q))
    (hport : ∀ s q, p s → p { s with port := q })
    (hbegins : ∀ {c s u}, Begins c s u → p s → p u) (hleaves : ∀ {s t}, p s → Leaves s t → p t)
    {s t : State} (h : step s = .next t) (hs : p s) : p t := by
  unfold step at h
  split at h
  · cases h
    exact hs
  · next c rest hq =>
    obtain ⟨t', he, v, q, rfl, u, hu, hv⟩ := exec_answers c (s.withPending rest)
    rw [he] at h
    cases h
    exact hport v q (hleaves (hbegins hu (hpending s rest hs)) hv)

end Sys2Proof.Machine

section
open Sys2Proof Sys2Proof.Machine

/-- Settles O57: what a command writes of its own stays in the ranges, and so does what the shared
operations do after it. -/
theorem capacitiesAndRangesKept : Obligations.CapacitiesAndRangesKept := by
  unfold Obligations.CapacitiesAndRangesKept
  intro s t h hcap hcfg hoffset hwind hlost
  exact kept_of_exec (p := InRanges) (fun _ _ h => h) (fun _ _ h => h) begins_inRanges
    InRanges.leaves h ⟨hcap, hcfg, hoffset, hwind, hlost⟩

/-- Settles O58: the table and the list change by insertions in their places and by removals, and the
map is formed afresh after each change of the list. -/
theorem tablesAndMapKept : Obligations.TablesAndMapKept := by
  unfold Obligations.TablesAndMapKept
  intro s t h htable hwindows hmap
  exact kept_of_exec (p := InOrder) (fun _ _ h => h) (fun _ _ h => h) begins_inOrder
    InOrder.leaves h ⟨htable, hwindows, hmap⟩

/-- Settles O2: the surroundings are a command's own to write, and no shared operation writes them. -/
theorem commandsKeepTheirSurroundings : Obligations.CommandsKeepTheirSurroundings := by
  unfold Obligations.CommandsKeepTheirSurroundings
  intro c s
  cases hc : isPortCommand c with
  | true =>
    obtain ⟨t, he, v, q, rfl, u, hu, hv⟩ := exec_answers c s
    obtain ⟨hpending, hnow, hcfg, hpins⟩ := (begins_surroundings hu).leaves hv
    exact ⟨_, he, hpending, hnow, hcfg, hpins, .inl rfl⟩
  | false =>
    by_cases ht : c = .transactionEnd
    · subst ht
      exact ⟨_, rfl, rfl, rfl, rfl, rfl, .inr (.inl rfl)⟩
    · by_cases hr : ∃ b, c = .hardwareReset b
      · obtain ⟨b, rfl⟩ := hr
        exact ⟨_, rfl, rfl, rfl, trivial, rfl, .inr (.inr (.inl ⟨b, rfl⟩))⟩
      · obtain ⟨t, he, u, hu, hv⟩ := exec_event c s hc ht fun b hb => hr ⟨b, hb⟩
        obtain ⟨hpending, hnow, hcfg, hpins⟩ := (begins_surroundings hu).leaves hv
        have hport := hv.port.trans (begins_port hu fun b hb => hr ⟨b, hb⟩)
        exact ⟨t, he, hpending, hnow, hcfg, hpins, .inr (.inr (.inr hport))⟩

/-- Settles O3: a frame keeps the offset, so it is what the command wrote. -/
theorem offsetChangesOnlyAtStartAndEnded : Obligations.OffsetChangesOnlyAtStartAndEnded := by
  unfold Obligations.OffsetChangesOnlyAtStartAndEnded
  intro c s t h
  obtain ⟨t', he, v, q, rfl, u, hu, hv⟩ := exec_answers c s
  rw [he] at h
  cases h
  have htaken := begins_offset hu
  rw [← hv.offset] at htaken
  exact htaken

/-- Settles O4: a frame keeps the tables or empties them on the entry to CONFIG, so any other change is
what the command wrote. -/
theorem tablesChangeOnlyByTheirEvents : Obligations.TablesChangeOnlyByTheirEvents := by
  unfold Obligations.TablesChangeOnlyByTheirEvents
  intro c s t h
  obtain ⟨t', he, v, q, rfl, u, hu, hv⟩ := exec_answers c s
  rw [he] at h
  cases h
  obtain ⟨hneighbours, hwindows, hwind⟩ := begins_tables hu
  have hlist : v.windows = u.windows ∨ (v.part = .config ∧ v.windows = []) :=
    hv.windows.imp And.left fun ⟨hp, hw, _⟩ => ⟨hp, hw⟩
  exact ⟨kept_or_emptied hneighbours hv.neighbours hv.stays,
    kept_or_emptied hwindows hlist hv.stays, kept_or_emptied hwind hv.wind hv.stays⟩

end
end

section
/-! SUPPORT. The standings of the engine: the nine ways in which its state, its head work, its grant, its
timers and the queue can agree (R112, R134, R148), and what keeps them. -/

namespace Sys2Proof.Machine

/-! ### The nine standings -/

/-- No hold-off runs, and neither the expired marker nor the echo flag is set. -/
structure Unmarked (e : Engine) : Prop where
  holdOff : e.holdOff = none
  expired : e.expired = false
  echo : e.echo = false

/-- No grant stands, no intent is marked and no timer of the engine's states runs. -/
structure Released (e : Engine) : Prop extends Unmarked e where
  grant : e.grant = none
  startTimeout : e.startTimeout = none
  overrun : e.overrun = none
  settle : e.settle = none

/-- All requests of a list are QUEUED. -/
abbrev AllQueued (q : List Request) : Prop := ∀ x ∈ q, x.position = .queued

/-- The grant of the head: it names the request (R148). -/
structure GrantOfHead (g : Grant) (r : Request) : Prop where
  work : g.work = .request
  tag : g.tag = r.tag

/-- The grant of the park (R169). -/
structure GrantOfPark (g : Grant) : Prop where
  work : g.work = .park
  tag : g.tag = 0
  cls : g.cls = .priority

/-- The lawful standings of an engine over a queue, one constructor for each state and head work. -/
inductive Standing (p : PartState) : Engine → List Request → Prop
  | idle {e : Engine} (state : e.state = .idle) (work : e.work = .none) (released : Released e) :
      Standing p e []
  | waiting {e : Engine} {r : Request} {rest : List Request} (state : e.state = .waiting)
      (work : e.work = .request) (released : Released e) (part : p ≠ .stopping)
      (position : r.position = .waiting) (queued : AllQueued rest) : Standing p e (r :: rest)
  | intent {e : Engine} {r : Request} {rest : List Request} (state : e.state = .intent)
      (work : e.work = .request) (grant : e.grant = none) (startTimeout : e.startTimeout = none)
      (overrun : e.overrun = none) (settle : e.settle = none) (part : p ≠ .stopping)
      (position : r.position = .intent) (deferred : r.deferred = false) (queued : AllQueued rest) :
      Standing p e (r :: rest)
  | granted {e : Engine} {r : Request} {rest : List Request} {g : Grant}
      (state : e.state = .granted) (work : e.work = .request) (grant : e.grant = some g)
      (names : GrantOfHead g r) (unmarked : Unmarked e) (startTimeout : e.startTimeout.isSome = true)
      (overrun : e.overrun = none) (settle : e.settle = none) (part : p ≠ .stopping)
      (position : r.position = .granted) (deferred : r.deferred = false) (queued : AllQueued rest) :
      Standing p e (r :: rest)
  | grantedPark {e : Engine} {q : List Request} {g : Grant} (state : e.state = .granted)
      (work : e.work = .park) (grant : e.grant = some g) (names : GrantOfPark g)
      (unmarked : Unmarked e) (startTimeout : e.startTimeout = none) (overrun : e.overrun = none)
      (settle : e.settle = none) (queued : AllQueued q) (stopping : p = .stopping → q = []) :
      Standing p e q
  | moving {e : Engine} {r : Request} {rest : List Request} {g : Grant}
      (state : e.state = .moving) (work : e.work = .request) (grant : e.grant = some g)
      (names : GrantOfHead g r) (unmarked : Unmarked e) (startTimeout : e.startTimeout = none)
      (settle : e.settle = none) (position : r.position = .moving) (deferred : r.deferred = false)
      (queued : AllQueued rest) (stopping : p = .stopping → rest = [] ∧ r.endsAtStop = true) :
      Standing p e (r :: rest)
  | movingPark {e : Engine} {q : List Request} {g : Grant} (state : e.state = .moving)
      (work : e.work = .park) (grant : e.grant = some g) (names : GrantOfPark g)
      (unmarked : Unmarked e) (startTimeout : e.startTimeout = none)
      (settle : e.settle = none) (queued : AllQueued q) (stopping : p = .stopping → q = []) :
      Standing p e q
  | settling {e : Engine} {r : Request} {rest : List Request} (state : e.state = .settling)
      (work : e.work = .request) (grant : e.grant ≠ none) (unmarked : Unmarked e)
      (startTimeout : e.startTimeout = none) (overrun : e.overrun = none)
      (settle : e.settle.isSome = true) (part : p ≠ .stopping) (position : r.position = .settling)
      (sweep : r.isSweep = true) (deferred : r.deferred = false) (queued : AllQueued rest) :
      Standing p e (r :: rest)
  | settlingAlone {e : Engine} {q : List Request} (state : e.state = .settling)
      (work : e.work = .none) (grant : e.grant ≠ none) (unmarked : Unmarked e)
      (startTimeout : e.startTimeout = none) (overrun : e.overrun = none)
      (settle : e.settle.isSome = true) (part : p ≠ .stopping) (queued : AllQueued q) :
      Standing p e q

/-! ### The standings are what the claim calls coherent -/

/-- A queue of QUEUED requests that all stand in MOVING is empty. -/
theorem eq_nil_of_queued_of_moving {q : List Request} (hq : AllQueued q)
    (hm : ∀ r ∈ q, r.position = .moving ∧ r.endsAtStop = true) : q = [] := by
  cases q with
  | nil => rfl
  | cons r rest =>
    have := (hq r List.mem_cons_self).symm.trans (hm r List.mem_cons_self).1
    cases this

theorem unmarked_of_timersAgree {e : Engine} (h : timersAgree e) (hs : e.state ≠ .intent) :
    Unmarked e := by
  obtain ⟨holdOff, expired, echo, -⟩ := h
  refine ⟨?_, ?_, ?_⟩
  · rw [← Option.not_isSome_iff_eq_none]
    exact fun hc => hs (holdOff hc)
  · exact Bool.eq_false_iff.2 fun hc => hs (expired hc)
  · exact Bool.eq_false_iff.2 fun hc => hs (echo hc)

theorem timers_of_timersAgree {e : Engine} (h : timersAgree e) :
    (¬(e.state = .granted ∧ e.work = .request) → e.startTimeout = none) ∧
    (e.state ≠ .moving → e.overrun = none) ∧ (e.state ≠ .settling → e.settle = none) := by
  obtain ⟨-, -, -, startTimeout, overrun, settle⟩ := h
  refine ⟨fun hn => ?_, fun hn => ?_, fun hn => ?_⟩ <;> rw [← Option.not_isSome_iff_eq_none]
  · exact fun hc => hn (startTimeout.1 hc)
  · exact fun hc => hn (overrun hc)
  · exact fun hc => hn (settle.1 hc)

/-- The head of a coherent queue at work, with what stands behind it. -/
theorem head_of_positionsAgree {s : EngineState} {q : List Request}
    (h : positionsAgree s .request q) : ∃ r rest, q = r :: rest ∧ r.position = positionIn s ∧
      (s = .settling → r.isSweep = true) ∧ AllQueued rest := by
  cases q with
  | nil => exact h.elim
  | cons r rest => exact ⟨r, rest, rfl, h⟩

theorem standing_of_coherent {s : State} (h : EngineCoherent s) :
    Standing s.part s.engine s.queue := by
  obtain ⟨carries, positions, grant, timers, idle, deferred, stopping⟩ := h
  obtain ⟨noStart, noOverrun, noSettle⟩ := timers_of_timersAgree timers
  have hunmarked := unmarked_of_timersAgree timers
  have hstop : s.engine.state ≠ .idle → s.engine.state ≠ .moving →
      ¬(s.engine.state = .granted ∧ s.engine.work = .park) → s.part ≠ .stopping :=
    fun h1 h2 h3 hp => by
      rcases (stopping hp).2 with hc | hc | hc
      · exact h1 hc
      · exact h2 hc
      · exact h3 hc
  have hdeferred : ∀ {r rest}, s.queue = r :: rest → r.position ≠ .queued →
      r.position ≠ .waiting → r.deferred = false := fun {r rest} hq h1 h2 => by
    rw [Bool.eq_false_iff]
    intro hd
    rcases deferred r (by rw [hq]; exact List.mem_cons_self) hd with hc | hc
    · exact h1 hc
    · exact h2 hc
  obtain ⟨-, -, -, startIff, -, settleIff⟩ := timers
  have hstartSome : s.engine.state = .granted → s.engine.work = .request →
      s.engine.startTimeout.isSome = true := fun h1 h2 => startIff.2 ⟨h1, h2⟩
  unfold grantAgrees at grant
  cases hstate : s.engine.state <;> cases hwork : s.engine.work <;>
    rw [hstate, hwork] at carries positions <;> try contradiction
  case idle.none =>
    rw [hstate] at grant
    rw [idle hstate]
    exact .idle hstate hwork ⟨hunmarked (by simp [hstate]), grant, noStart (by simp [hstate]),
      noOverrun (by simp [hstate]), noSettle (by simp [hstate])⟩
  case waiting.request =>
    obtain ⟨r, rest, hq, hpos, -, hrest⟩ := head_of_positionsAgree positions
    rw [hstate] at grant
    rw [hq]
    exact .waiting hstate hwork ⟨hunmarked (by simp [hstate]), grant, noStart (by simp [hstate]),
      noOverrun (by simp [hstate]), noSettle (by simp [hstate])⟩ (hstop (by simp [hstate])
      (by simp [hstate]) (by simp [hstate])) hpos hrest
  case intent.request =>
    obtain ⟨r, rest, hq, hpos, -, hrest⟩ := head_of_positionsAgree positions
    have hd := hdeferred hq (by rw [hpos]; decide) (by rw [hpos]; decide)
    rw [hstate] at grant
    rw [hq]
    exact .intent hstate hwork grant (noStart (by simp [hstate])) (noOverrun (by simp [hstate]))
      (noSettle (by simp [hstate])) (hstop (by simp [hstate]) (by simp [hstate])
      (by simp [hstate])) hpos hd hrest
  case granted.request =>
    obtain ⟨r, rest, hq, hpos, -, hrest⟩ := head_of_positionsAgree positions
    have hd := hdeferred hq (by rw [hpos]; decide) (by rw [hpos]; decide)
    rw [hstate, hwork, hq] at grant
    obtain ⟨g, hg, hgwork, hgtag⟩ := grant
    rw [hq]
    exact .granted hstate hwork hg ⟨hgwork, (Option.some.inj hgtag).symm⟩
      (hunmarked (by simp [hstate])) (hstartSome hstate hwork) (noOverrun (by simp [hstate]))
      (noSettle (by simp [hstate])) (hstop (by simp [hstate]) (by simp [hstate])
      (by simp [hstate, hwork])) hpos hd hrest
  case granted.park =>
    rw [hstate, hwork] at grant
    obtain ⟨g, hg, hgwork, hgtag, hgcls⟩ := grant
    exact .grantedPark hstate hwork hg ⟨hgwork, hgtag, hgcls⟩ (hunmarked (by simp [hstate]))
      (noStart (by simp [hwork])) (noOverrun (by simp [hstate])) (noSettle (by simp [hstate]))
      positions fun hp => eq_nil_of_queued_of_moving positions (stopping hp).1
  case moving.request =>
    obtain ⟨r, rest, hq, hpos, -, hrest⟩ := head_of_positionsAgree positions
    have hd := hdeferred hq (by rw [hpos]; decide) (by rw [hpos]; decide)
    rw [hstate, hwork, hq] at grant
    obtain ⟨g, hg, hgwork, hgtag⟩ := grant
    rw [hq] at stopping ⊢
    refine .moving hstate hwork hg ⟨hgwork, (Option.some.inj hgtag).symm⟩
      (hunmarked (by simp [hstate])) (noStart (by simp [hstate])) (noSettle (by simp [hstate]))
      hpos hd hrest fun hp => ⟨?_, ((stopping hp).1 r List.mem_cons_self).2⟩
    exact eq_nil_of_queued_of_moving hrest fun x hx =>
      (stopping hp).1 x (List.mem_cons_of_mem _ hx)
  case moving.park =>
    rw [hstate, hwork] at grant
    obtain ⟨g, hg, hgwork, hgtag, hgcls⟩ := grant
    exact .movingPark hstate hwork hg ⟨hgwork, hgtag, hgcls⟩ (hunmarked (by simp [hstate]))
      (noStart (by simp [hwork])) (noSettle (by simp [hstate])) positions
      fun hp => eq_nil_of_queued_of_moving positions (stopping hp).1
  case settling.request =>
    obtain ⟨r, rest, hq, hpos, hsweep, hrest⟩ := head_of_positionsAgree positions
    have hd := hdeferred hq (by rw [hpos]; decide) (by rw [hpos]; decide)
    rw [hstate] at grant
    rw [hq]
    exact .settling hstate hwork grant (hunmarked (by simp [hstate])) (noStart (by simp [hstate]))
      (noOverrun (by simp [hstate])) (settleIff.2 hstate) (hstop (by simp [hstate])
      (by simp [hstate]) (by simp [hstate])) hpos (hsweep rfl) hd hrest
  case settling.none =>
    rw [hstate] at grant
    exact .settlingAlone hstate hwork grant (hunmarked (by simp [hstate]))
      (noStart (by simp [hstate])) (noOverrun (by simp [hstate])) (settleIff.2 hstate)
      (hstop (by simp [hstate]) (by simp [hstate]) (by simp [hstate])) positions

/-- Of a head and QUEUED requests behind it, a deferred one stands in QUEUED or WAITING. -/
theorem deferred_position {r : Request} {rest : List Request} (hd : r.deferred = false)
    (hq : AllQueued rest) :
    ∀ x ∈ r :: rest, x.deferred = true → x.position = .queued ∨ x.position = .waiting := by
  intro x hx hxd
  rcases List.mem_cons.1 hx with rfl | hx
  · rw [hd] at hxd; cases hxd
  · exact .inl (hq x hx)

section
variable {p : PartState} {e : Engine} {q : List Request}

theorem Standing.carries (h : Standing p e q) : stateCarries e.state e.work = true := by
  cases h <;> simp only [*] <;> rfl

theorem Standing.positions (h : Standing p e q) : positionsAgree e.state e.work q := by
  cases h with
  | idle state work released => rw [work]; exact List.forall_mem_nil _
  | waiting state work released part position queued =>
    rw [state, work]
    exact ⟨position, nofun, queued⟩
  | intent state work grant startTimeout overrun settle part position deferred queued =>
    rw [state, work]
    exact ⟨position, nofun, queued⟩
  | granted state work grant names unmarked startTimeout overrun settle part position deferred
      queued =>
    rw [state, work]
    exact ⟨position, nofun, queued⟩
  | grantedPark state work grant names unmarked startTimeout overrun settle queued =>
    rw [work]
    exact queued
  | moving state work grant names unmarked startTimeout settle position deferred queued =>
    rw [state, work]
    exact ⟨position, nofun, queued⟩
  | movingPark state work grant names unmarked startTimeout settle queued =>
    rw [work]
    exact queued
  | settling state work grant unmarked startTimeout overrun settle part position sweep deferred
      queued =>
    rw [state, work]
    exact ⟨position, fun _ => sweep, queued⟩
  | settlingAlone state work grant unmarked startTimeout overrun settle part queued =>
    rw [work]
    exact queued

theorem Standing.grantAgrees (h : Standing p e q) : grantAgrees e q := by
  unfold Machine.grantAgrees
  cases h with
  | idle state work released => rw [state]; exact released.grant
  | waiting state work released => rw [state]; exact released.grant
  | intent state work grant => rw [state]; exact grant
  | granted state work grant names =>
    rw [state, work]
    exact ⟨_, grant, names.work, congrArg some names.tag.symm⟩
  | grantedPark state work grant names =>
    rw [state, work]
    exact ⟨_, grant, names.work, names.tag, names.cls⟩
  | moving state work grant names =>
    rw [state, work]
    exact ⟨_, grant, names.work, congrArg some names.tag.symm⟩
  | movingPark state work grant names =>
    rw [state, work]
    exact ⟨_, grant, names.work, names.tag, names.cls⟩
  | settling state work grant => rw [state]; exact grant
  | settlingAlone state work grant => rw [state]; exact grant

/-- The timers outside INTENT, where nothing of an intent is marked. -/
theorem timersAgree_of_unmarked (h : Unmarked e)
    (start : e.startTimeout.isSome = true ↔ e.state = .granted ∧ e.work = .request)
    (overrun : e.overrun.isSome = true → e.state = .moving)
    (settle : e.settle.isSome = true ↔ e.state = .settling) : timersAgree e := by
  obtain ⟨holdOff, expired, echo⟩ := h
  exact ⟨by simp [holdOff], by simp [expired], by simp [echo], start, overrun, settle⟩

theorem timersAgree_of_released (h : Released e)
    (hstate : e.state = .idle ∨ e.state = .waiting) : timersAgree e := by
  obtain ⟨unmarked, -, startTimeout, overrun, settle⟩ := h
  refine timersAgree_of_unmarked unmarked ?_ ?_ ?_
  · rcases hstate with h | h <;> simp [h, startTimeout]
  · simp [overrun]
  · rcases hstate with h | h <;> simp [h, settle]

theorem Standing.timersAgree (h : Standing p e q) : timersAgree e := by
  cases h with
  | idle state work released => exact timersAgree_of_released released (.inl state)
  | waiting state work released => exact timersAgree_of_released released (.inr state)
  | intent state work grant startTimeout overrun settle =>
    simp [Machine.timersAgree, state, startTimeout, overrun, settle]
  | granted state work grant names unmarked startTimeout overrun settle =>
    exact timersAgree_of_unmarked unmarked (by simp [startTimeout, state, work])
      (by simp [overrun]) (by simp [settle, state])
  | grantedPark state work grant names unmarked startTimeout overrun settle =>
    exact timersAgree_of_unmarked unmarked (by simp [startTimeout, work])
      (by simp [overrun]) (by simp [settle, state])
  | moving state work grant names unmarked startTimeout settle =>
    exact timersAgree_of_unmarked unmarked (by simp [startTimeout, state]) (fun _ => state)
      (by simp [settle, state])
  | movingPark state work grant names unmarked startTimeout settle =>
    exact timersAgree_of_unmarked unmarked (by simp [startTimeout, state]) (fun _ => state)
      (by simp [settle, state])
  | settling state work grant unmarked startTimeout overrun settle =>
    exact timersAgree_of_unmarked unmarked (by simp [startTimeout, state])
      (by simp [overrun]) (by simp [settle, state])
  | settlingAlone state work grant unmarked startTimeout overrun settle =>
    exact timersAgree_of_unmarked unmarked (by simp [startTimeout, state])
      (by simp [overrun]) (by simp [settle, state])

theorem Standing.eq_nil (h : Standing p e q) (hs : e.state = .idle) : q = [] := by
  cases h with
  | idle => rfl
  | _ => simp_all

theorem Standing.deferred (h : Standing p e q) :
    ∀ x ∈ q, x.deferred = true → x.position = .queued ∨ x.position = .waiting := by
  cases h with
  | idle => exact List.forall_mem_nil _
  | waiting state work released part position queued =>
    intro x hx _
    rcases List.mem_cons.1 hx with rfl | hx
    · exact .inr position
    · exact .inl (queued x hx)
  | intent _ _ _ _ _ _ _ _ deferred queued => exact deferred_position deferred queued
  | granted _ _ _ _ _ _ _ _ _ _ deferred queued => exact deferred_position deferred queued
  | grantedPark _ _ _ _ _ _ _ _ queued => exact fun x hx _ => .inl (queued x hx)
  | moving _ _ _ _ _ _ _ _ deferred queued => exact deferred_position deferred queued
  | movingPark _ _ _ _ _ _ _ queued => exact fun x hx _ => .inl (queued x hx)
  | settling _ _ _ _ _ _ _ _ _ _ deferred queued => exact deferred_position deferred queued
  | settlingAlone _ _ _ _ _ _ _ _ queued => exact fun x hx _ => .inl (queued x hx)

theorem Standing.stopping (h : Standing p e q) (hp : p = .stopping) :
    (∀ r ∈ q, r.position = .moving ∧ r.endsAtStop = true) ∧
      (e.state = .idle ∨ e.state = .moving ∨ (e.state = .granted ∧ e.work = .park)) := by
  cases h with
  | idle state => exact ⟨List.forall_mem_nil _, .inl state⟩
  | grantedPark state work _ _ _ _ _ _ _ stopping =>
    rw [stopping hp]
    exact ⟨List.forall_mem_nil _, .inr (.inr ⟨state, work⟩)⟩
  | moving state _ _ _ _ _ _ position _ _ stopping =>
    obtain ⟨rfl, hends⟩ := stopping hp
    refine ⟨fun x hx => ?_, .inr (.inl state)⟩
    rw [List.mem_singleton.1 hx]
    exact ⟨position, hends⟩
  | movingPark state _ _ _ _ _ _ _ stopping =>
    rw [stopping hp]
    exact ⟨List.forall_mem_nil _, .inr (.inl state)⟩
  | _ => contradiction

end

theorem coherent_of_standing {s : State} (h : Standing s.part s.engine s.queue) :
    EngineCoherent s :=
  ⟨h.carries, h.positions, h.grantAgrees, h.timersAgree, h.eq_nil, h.deferred, h.stopping⟩

theorem coherent_iff_standing (s : State) :
    EngineCoherent s ↔ Standing s.part s.engine s.queue :=
  ⟨standing_of_coherent, coherent_of_standing⟩

end Sys2Proof.Machine
end

section
/-! SUPPORT. The engine's shared operations keep a sound engine: distinct tags, one of the nine standings,
and neither an intent nor a normal grant under a held set (R111, R134, R160). -/

namespace Sys2Proof.Machine

/-! ### What each state of a standing says -/

section
variable {p : PartState} {e : Engine} {q : List Request}

theorem Standing.of_waiting (h : Standing p e q) (hs : e.state = .waiting) :
    ∃ r rest, q = r :: rest ∧ e.work = .request ∧ Released e ∧ p ≠ .stopping ∧
      r.position = .waiting ∧ AllQueued rest := by
  cases h with
  | waiting _ work released part position queued =>
    exact ⟨_, _, rfl, work, released, part, position, queued⟩
  | _ => simp_all

theorem Standing.of_intent (h : Standing p e q) (hs : e.state = .intent) :
    ∃ r rest, q = r :: rest ∧ e.work = .request ∧ e.grant = none ∧ e.startTimeout = none ∧
      e.overrun = none ∧ e.settle = none ∧ p ≠ .stopping ∧ r.position = .intent ∧
      r.deferred = false ∧ AllQueued rest := by
  cases h with
  | intent _ work grant startTimeout overrun settle part position deferred queued =>
    exact ⟨_, _, rfl, work, grant, startTimeout, overrun, settle, part, position, deferred, queued⟩
  | _ => simp_all

theorem Standing.of_granted (h : Standing p e q) (hs : e.state = .granted)
    (hw : e.work = .request) :
    ∃ r rest g, q = r :: rest ∧ e.grant = some g ∧ GrantOfHead g r ∧ Unmarked e ∧
      e.overrun = none ∧ e.settle = none ∧ p ≠ .stopping ∧ r.position = .granted ∧
      r.deferred = false ∧ AllQueued rest := by
  cases h with
  | granted _ _ grant names unmarked _ overrun settle part position deferred queued =>
    exact ⟨_, _, _, rfl, grant, names, unmarked, overrun, settle, part, position, deferred, queued⟩
  | _ => simp_all

theorem Standing.of_settling (h : Standing p e q) (hs : e.state = .settling) :
    Unmarked e ∧ e.startTimeout = none ∧ e.overrun = none ∧ p ≠ .stopping ∧
      AllQueued q.tail := by
  cases h with
  | settling _ _ _ unmarked startTimeout overrun _ part _ _ _ queued =>
    exact ⟨unmarked, startTimeout, overrun, part, queued⟩
  | settlingAlone _ _ _ unmarked startTimeout overrun _ part queued =>
    exact ⟨unmarked, startTimeout, overrun, part, fun x hx => queued x (List.mem_of_mem_tail hx)⟩
  | _ => simp_all

/-- Of a lawful queue every request but the head is QUEUED. -/
theorem Standing.tail_queued (h : Standing p e q) : AllQueued q.tail := by
  cases h with
  | idle => exact List.forall_mem_nil _
  | waiting _ _ _ _ _ queued => exact queued
  | intent _ _ _ _ _ _ _ _ _ queued => exact queued
  | granted _ _ _ _ _ _ _ _ _ _ _ queued => exact queued
  | moving _ _ _ _ _ _ _ _ _ queued => exact queued
  | settling _ _ _ _ _ _ _ _ _ _ _ queued => exact queued
  | grantedPark _ _ _ _ _ _ _ _ queued =>
    exact fun x hx => queued x (List.mem_of_mem_tail hx)
  | movingPark _ _ _ _ _ _ _ queued => exact fun x hx => queued x (List.mem_of_mem_tail hx)
  | settlingAlone _ _ _ _ _ _ _ _ queued =>
    exact fun x hx => queued x (List.mem_of_mem_tail hx)

/-- A request outside QUEUED is the head, at the position of the engine's state (R112). -/
theorem Standing.head_of_position (h : Standing p e q) {r : Request} (hr : r ∈ q)
    (hpos : r.position ≠ .queued) :
    e.work = .request ∧ r.position = positionIn e.state ∧ ∃ rest, q = r :: rest := by
  have hagree := h.positions
  cases hw : e.work with
  | request =>
    rw [hw] at hagree
    obtain ⟨r', rest, rfl, hpos', -, hrest⟩ := head_of_positionsAgree hagree
    rcases List.mem_cons.1 hr with rfl | hr
    · exact ⟨rfl, hpos', rest, rfl⟩
    · exact absurd (hrest r hr) hpos
  | none => rw [hw] at hagree; exact absurd (hagree r hr) hpos
  | park => rw [hw] at hagree; exact absurd (hagree r hr) hpos

/-- A change of requests in place that keeps what a standing reads of them. -/
structure InPlace (f : Request → Request) (r : Request) : Prop where
  tag : (f r).tag = r.tag
  position : (f r).position = r.position
  sweep : (f r).isSweep = r.isSweep
  ends : r.endsAtStop = true → (f r).endsAtStop = true
  deferred : r.position ≠ .queued → r.position ≠ .waiting → r.deferred = false →
    (f r).deferred = false

theorem allQueued_map {f : Request → Request} (h : AllQueued q) (hf : ∀ r ∈ q, InPlace f r) :
    AllQueued (q.map f) := by
  intro x hx
  obtain ⟨y, hy, rfl⟩ := List.mem_map.1 hx
  exact (hf y hy).position.trans (h y hy)

theorem Standing.map {f : Request → Request} (h : Standing p e q) (hf : ∀ r ∈ q, InPlace f r) :
    Standing p e (q.map f) := by
  cases h with
  | idle state work released => exact .idle state work released
  | @waiting r rest state work released part position queued =>
    have hr := hf r List.mem_cons_self
    exact .waiting state work released part (hr.position.trans position)
      (allQueued_map queued fun x hx => hf x (List.mem_cons_of_mem _ hx))
  | @intent r rest state work grant startTimeout overrun settle part position deferred queued =>
    have hr := hf r List.mem_cons_self
    exact .intent state work grant startTimeout overrun settle part (hr.position.trans position)
      (hr.deferred (by rw [position]; decide) (by rw [position]; decide) deferred)
      (allQueued_map queued fun x hx => hf x (List.mem_cons_of_mem _ hx))
  | @granted r rest g state work grant names unmarked startTimeout overrun settle part position
      deferred queued =>
    have hr := hf r List.mem_cons_self
    exact .granted state work grant ⟨names.work, names.tag.trans hr.tag.symm⟩ unmarked
      startTimeout overrun settle part (hr.position.trans position)
      (hr.deferred (by rw [position]; decide) (by rw [position]; decide) deferred)
      (allQueued_map queued fun x hx => hf x (List.mem_cons_of_mem _ hx))
  | grantedPark state work grant names unmarked startTimeout overrun settle queued stopping =>
    exact .grantedPark state work grant names unmarked startTimeout overrun settle
      (allQueued_map queued hf) fun hp => by rw [stopping hp]; rfl
  | @moving r rest g state work grant names unmarked startTimeout settle position deferred queued
      stopping =>
    have hr := hf r List.mem_cons_self
    refine .moving state work grant ⟨names.work, names.tag.trans hr.tag.symm⟩ unmarked
      startTimeout settle (hr.position.trans position)
      (hr.deferred (by rw [position]; decide) (by rw [position]; decide) deferred)
      (allQueued_map queued fun x hx => hf x (List.mem_cons_of_mem _ hx)) fun hp => ?_
    obtain ⟨rfl, hends⟩ := stopping hp
    exact ⟨rfl, hr.ends hends⟩
  | movingPark state work grant names unmarked startTimeout settle queued stopping =>
    exact .movingPark state work grant names unmarked startTimeout settle
      (allQueued_map queued hf) fun hp => by rw [stopping hp]; rfl
  | @settling r rest state work grant unmarked startTimeout overrun settle part position sweep
      deferred queued =>
    have hr := hf r List.mem_cons_self
    exact .settling state work grant unmarked startTimeout overrun settle part
      (hr.position.trans position) (hr.sweep.trans sweep)
      (hr.deferred (by rw [position]; decide) (by rw [position]; decide) deferred)
      (allQueued_map queued fun x hx => hf x (List.mem_cons_of_mem _ hx))
  | settlingAlone state work grant unmarked startTimeout overrun settle part queued =>
    exact .settlingAlone state work grant unmarked startTimeout overrun settle part
      (allQueued_map queued hf)

theorem allQueued_filter (h : AllQueued q) (f : Request → Bool) : AllQueued (q.filter f) :=
  fun x hx => h x (List.mem_filter.1 hx).1

/-- Requests leave from behind the head. -/
theorem Standing.filter {f : Request → Bool} (h : Standing p e q)
    (hf : ∀ r ∈ q, r.position ≠ .queued → f r = true) : Standing p e (q.filter f) := by
  have hhead : ∀ {r : Request} {rest : List Request}, q = r :: rest → r.position ≠ .queued →
      q.filter f = r :: rest.filter f := fun {r rest} hq hr => by
    subst hq
    exact List.filter_cons_of_pos (hf r List.mem_cons_self hr)
  cases h with
  | idle state work released => exact .idle state work released
  | waiting state work released part position queued =>
    rw [hhead rfl (by rw [position]; decide)]
    exact .waiting state work released part position (allQueued_filter queued f)
  | intent state work grant startTimeout overrun settle part position deferred queued =>
    rw [hhead rfl (by rw [position]; decide)]
    exact .intent state work grant startTimeout overrun settle part position deferred
      (allQueued_filter queued f)
  | granted state work grant names unmarked startTimeout overrun settle part position deferred
      queued =>
    rw [hhead rfl (by rw [position]; decide)]
    exact .granted state work grant names unmarked startTimeout overrun settle part position
      deferred (allQueued_filter queued f)
  | grantedPark state work grant names unmarked startTimeout overrun settle queued stopping =>
    exact .grantedPark state work grant names unmarked startTimeout overrun settle
      (allQueued_filter queued f) fun hp => by rw [stopping hp]; rfl
  | moving state work grant names unmarked startTimeout settle position deferred queued stopping =>
    rw [hhead rfl (by rw [position]; decide)]
    refine .moving state work grant names unmarked startTimeout settle position deferred
      (allQueued_filter queued f) fun hp => ?_
    obtain ⟨rfl, hends⟩ := stopping hp
    exact ⟨rfl, hends⟩
  | movingPark state work grant names unmarked startTimeout settle queued stopping =>
    exact .movingPark state work grant names unmarked startTimeout settle
      (allQueued_filter queued f) fun hp => by rw [stopping hp]; rfl
  | settling state work grant unmarked startTimeout overrun settle part position sweep deferred
      queued =>
    rw [hhead rfl (by rw [position]; decide)]
    exact .settling state work grant unmarked startTimeout overrun settle part position sweep
      deferred (allQueued_filter queued f)
  | settlingAlone state work grant unmarked startTimeout overrun settle part queued =>
    exact .settlingAlone state work grant unmarked startTimeout overrun settle part
      (allQueued_filter queued f)

end

/-! ### Tags -/

/-- The tags of a queue, unique and none 0 (R111). -/
def DistinctTags (q : List Request) : Prop :=
  (q.Pairwise fun r x => r.tag ≠ x.tag) ∧ ∀ r ∈ q, r.tag ≠ 0

theorem distinctTags_iff (q : List Request) :
    DistinctTags q ↔ (q.map Request.tag).Nodup ∧ (0 : W16) ∉ q.map Request.tag := by
  unfold DistinctTags
  rw [List.Nodup, List.pairwise_map]
  simp only [List.mem_map, not_exists, not_and]

/-- Tags that all stood in the queue before, in their order, are distinct as before. -/
theorem DistinctTags.of_sublist {q q' : List Request} (h : DistinctTags q)
    (hsub : (q'.map Request.tag).Sublist (q.map Request.tag)) : DistinctTags q' := by
  rw [distinctTags_iff] at *
  exact ⟨h.1.sublist hsub, fun hmem => h.2 (hsub.subset hmem)⟩

theorem DistinctTags.filter {q : List Request} (h : DistinctTags q) (f : Request → Bool) :
    DistinctTags (q.filter f) := h.of_sublist (List.filter_sublist.map _)

theorem DistinctTags.map {q : List Request} {f : Request → Request} (h : DistinctTags q)
    (hf : ∀ r, (f r).tag = r.tag) : DistinctTags (q.map f) :=
  h.of_sublist (by rw [List.map_map, show Request.tag ∘ f = Request.tag from funext hf])

theorem DistinctTags.cons_congr {r r' : Request} {rest : List Request}
    (h : DistinctTags (r :: rest)) (ht : r'.tag = r.tag) : DistinctTags (r' :: rest) :=
  h.of_sublist (by rw [List.map_cons, List.map_cons, ht])

/-- The head's tag stands nowhere behind it. -/
theorem DistinctTags.head_ne {r : Request} {rest : List Request} (h : DistinctTags (r :: rest)) :
    ∀ x ∈ rest, x.tag ≠ r.tag := fun x hx => ((List.pairwise_cons.1 h.1).1 x hx).symm

/-- The head's removal leaves the rest of the queue. -/
theorem removeTag_head {r r' : Request} {rest : List Request} (h : DistinctTags (r :: rest))
    (ht : r'.tag = r.tag) : removeTag r'.tag (r :: rest) = rest := by
  unfold removeTag
  rw [List.filter_cons_of_neg (by simp [ht]), List.filter_eq_self]
  intro x hx
  simp [ht, h.head_ne x hx]

/-- In a queue of distinct tags a tag names one request. -/
theorem DistinctTags.eq_of_tag {q : List Request} (h : DistinctTags q) {r x : Request}
    (hr : r ∈ q) (hx : x ∈ q) (ht : x.tag = r.tag) : x = r := by
  exact List.inj_on_of_nodup_map ((distinctTags_iff q).1 h).1 hx hr ht

/-! ### A sound engine -/

/-- The engine stands lawfully over a queue of distinct tags, in RUNNING or STOPPING. -/
structure Upright (s : State) : Prop where
  out : s.part ≠ .config
  tags : DistinctTags s.queue
  standing : Standing s.part s.engine s.queue

/-- Upright, and under a held set neither an intent nor a normal grant stands (R160). -/
structure Sound (s : State) : Prop extends Upright s where
  blocks : HeldBlocks s

theorem Upright.congr {s t : State} (h : Upright s) (hp : t.part = s.part)
    (he : t.engine = s.engine) (hq : t.queue = s.queue) : Upright t := by
  obtain ⟨out, tags, standing⟩ := h
  refine ⟨?_, ?_, ?_⟩
  · rw [hp]; exact out
  · rw [hq]; exact tags
  · rw [hp, he, hq]; exact standing

theorem Sound.congr {s t : State} (h : Sound s) (hp : t.part = s.part)
    (he : t.engine = s.engine) (hq : t.queue = s.queue) (hh : t.holds.held = s.holds.held) :
    Sound t := by
  refine ⟨h.toUpright.congr hp he hq, ?_⟩
  unfold HeldBlocks
  rw [hh, he]
  exact h.blocks

/-- With no source set nothing is blocked. -/
theorem Upright.sound_of_not_held {s : State} (h : Upright s) (hh : s.holds.held = false) :
    Sound s := ⟨h, fun hc => by rw [hh] at hc; cases hc⟩

/-- Outside INTENT and a normal grant nothing is to be blocked. -/
theorem Upright.sound_of_steady {s : State} (h : Upright s) (h1 : s.engine.state ≠ .intent)
    (h2 : ¬(s.engine.state = .granted ∧ s.engine.work = .request)) : Sound s :=
  ⟨h, fun _ => ⟨h1, h2⟩⟩

theorem sound_announce {s : State} (h : Sound s) : Sound (announce s) := h.congr rfl rfl rfl rfl

/-! ### A hold's effect -/

theorem sound_withdraw {s : State} (h : Upright s) (hs : s.engine.state = .intent) :
    Sound (withdraw s) := by
  obtain ⟨r, rest, hq, work, grant, startTimeout, overrun, settle, part, -, -, queued⟩ :=
    h.standing.of_intent hs
  have hqueue : (withdraw s).queue = r.at .waiting :: rest := by
    simp [withdraw, announce, headAt, hq, modFront]
  have tags : DistinctTags (withdraw s).queue := by
    rw [hqueue]
    exact (hq ▸ h.tags).cons_congr rfl
  refine Upright.sound_of_steady ⟨h.out, tags, ?_⟩ (by simp [withdraw, announce, headAt])
    (by simp [withdraw, announce, headAt])
  rw [hqueue]
  exact .waiting rfl work ⟨⟨rfl, rfl, rfl⟩, grant, startTimeout, overrun, settle⟩ part rfl queued

theorem sound_lapse {s : State} (h : Upright s) (hs : s.engine.state = .granted)
    (hw : s.engine.work = .request) : Sound (lapse s) := by
  obtain ⟨r, rest, g, hq, -, -, unmarked, overrun, settle, part, -, -, queued⟩ :=
    h.standing.of_granted hs hw
  obtain ⟨holdOff, expired, echo⟩ := unmarked
  have hqueue : (lapse s).queue = r.at .waiting :: rest := by
    simp [lapse, announce, headAt, hq, modFront]
  have tags : DistinctTags (lapse s).queue := by
    rw [hqueue]
    exact (hq ▸ h.tags).cons_congr rfl
  refine Upright.sound_of_steady ⟨h.out, tags, ?_⟩ (by simp [lapse, announce, headAt])
    (by simp [lapse, announce, headAt])
  rw [hqueue]
  exact .waiting rfl hw ⟨⟨holdOff, expired, echo⟩, rfl, rfl, overrun, settle⟩ part rfl queued

theorem sound_heldEffect {s : State} (h : Upright s) : Sound (heldEffect s) := by
  refine ⟨?_, fun _ => heldEffect_blocks s⟩
  unfold heldEffect
  split
  · next hs => exact (sound_withdraw h hs).toUpright
  · next hs hw => exact (sound_lapse h hs hw).toUpright
  · exact h

theorem sound_reportSet {s : State} (src : HoldSource) (h : Sound s) : Sound (reportSet src s) := by
  unfold reportSet
  split
  · exact h
  · exact sound_heldEffect (h.toUpright.congr rfl rfl rfl)

theorem sound_raiseFault {s : State} (k : FaultKind) (ctx : FaultContext) (h : Sound s) :
    Sound (raiseFault k ctx s) := by
  unfold raiseFault
  split
  · exact h
  · dsimp only
    split
    · exact sound_reportSet _ (h.congr rfl rfl rfl rfl)
    · exact h.congr rfl rfl rfl rfl

theorem sound_guardRise {s : State} (h : Sound s) : Sound (guardRise s) := by
  unfold guardRise
  split
  · exact sound_reportSet _ h
  · exact h

theorem sound_offer {s : State} (r : OutcomeRecord) (h : Sound s) : Sound (offer r s) := by
  unfold offer
  split
  · exact sound_guardRise (sound_raiseFault _ _ h)
  · split
    · exact sound_guardRise (sound_raiseFault _ _ (h.congr rfl rfl rfl rfl))
    · exact sound_guardRise (h.congr rfl rfl rfl rfl)

/-- The completion of a request behind the head, by its tag. -/
theorem sound_completeRequest {s : State} {r x : Request} (o : OutcomeCode) (h : Sound s)
    (hx : x ∈ s.queue) (ht : x.tag = r.tag) (hpos : x.position = .queued) :
    Sound (completeRequest r o s) := by
  have hstays : ∀ y ∈ s.queue, y.position ≠ .queued → decide (y.tag ≠ r.tag) = true := by
    intro y hy hypos
    refine decide_eq_true fun hyt => hypos ?_
    rw [h.tags.eq_of_tag hx hy (hyt.trans ht.symm), hpos]
  refine sound_offer _ ⟨⟨h.out, h.tags.filter _, h.standing.filter hstays⟩, h.blocks⟩

/-! ### Operations over an engine that no hold touches -/

/-- Neither an intent nor a normal grant: a held set leaves the engine and the queue alone. -/
structure Steady (s : State) : Prop where
  intent : s.engine.state ≠ .intent
  granted : ¬(s.engine.state = .granted ∧ s.engine.work = .request)

/-- The engine and the queue are as before. -/
structure SameWork (s t : State) : Prop where
  engine : t.engine = s.engine
  queue : t.queue = s.queue

theorem SameWork.refl (s : State) : SameWork s s := ⟨rfl, rfl⟩

theorem SameWork.trans {s t u : State} (h : SameWork s t) (k : SameWork t u) : SameWork s u :=
  ⟨k.engine.trans h.engine, k.queue.trans h.queue⟩

/-- A change outside the engine and the queue comes before. -/
theorem SameWork.of_record {s t u : State} (k : SameWork t u) (he : t.engine = s.engine)
    (hq : t.queue = s.queue) : SameWork s u := ⟨k.engine.trans he, k.queue.trans hq⟩

theorem Steady.congr {s t : State} (h : Steady s) (k : SameWork s t) : Steady t :=
  ⟨by rw [k.engine]; exact h.intent, by rw [k.engine]; exact h.granted⟩

theorem sameWork_reportSet {s : State} (src : HoldSource) (h : Steady s) :
    SameWork s (reportSet src s) := by
  unfold reportSet
  split
  · exact SameWork.refl s
  · rw [heldEffect_of_coherent]
    · exact ⟨rfl, rfl⟩
    · exact h.intent
    · exact h.granted

theorem sameWork_raiseFault {s : State} (k : FaultKind) (ctx : FaultContext) (h : Steady s) :
    SameWork s (raiseFault k ctx s) := by
  unfold raiseFault
  split
  · exact SameWork.refl s
  · dsimp only
    split
    · refine (sameWork_reportSet .halt ?_).of_record rfl rfl
      exact ⟨h.intent, h.granted⟩
    · exact ⟨rfl, rfl⟩

theorem sameWork_guardRise {s : State} (h : Steady s) : SameWork s (guardRise s) := by
  unfold guardRise
  split
  · exact sameWork_reportSet _ h
  · exact SameWork.refl s

theorem sameWork_offer {s : State} (r : OutcomeRecord) (h : Steady s) :
    SameWork s (offer r s) := by
  have hraised : ∀ {t : State} (ctx : FaultContext), SameWork s t →
      SameWork s (guardRise (raiseFault .outcomeLost ctx t)) := fun ctx k =>
    have hr := sameWork_raiseFault .outcomeLost ctx (h.congr k)
    (k.trans hr).trans (sameWork_guardRise ((h.congr k).congr hr))
  unfold offer
  split
  · exact hraised _ (SameWork.refl s)
  · split
    · exact hraised _ ⟨rfl, rfl⟩
    · refine (sameWork_guardRise ?_).of_record rfl rfl
      exact ⟨h.intent, h.granted⟩

theorem completeRequest_work {s : State} (r : Request) (o : OutcomeCode) (h : Steady s) :
    (completeRequest r o s).engine = s.engine ∧
      (completeRequest r o s).queue = removeTag r.tag s.queue := by
  have k := sameWork_offer (recordOf r o s) (s := s.modQueue (removeTag r.tag)) ⟨h.intent, h.granted⟩
  exact ⟨k.engine, k.queue⟩

theorem steady_of_state {s : State} {st : EngineState} (hs : s.engine.state = st)
    (h1 : st ≠ .intent) (h2 : st ≠ .granted) : Steady s :=
  ⟨by rw [hs]; exact h1, fun hc => h2 (hs.symm.trans hc.1)⟩

/-- A source's report clear, too, where the engine looks at nothing. -/
theorem sameWork_reportClear {s : State} (src : HoldSource) (h : Steady s)
    (hw : s.engine.state ≠ .waiting) : SameWork s (reportClear src s) := by
  unfold reportClear
  split
  · exact SameWork.refl s
  · dsimp only
    split
    · rw [heldEffect_of_coherent]
      · exact ⟨rfl, rfl⟩
      · exact h.intent
      · exact h.granted
    · rw [evalPoint_of_other]
      · exact ⟨rfl, rfl⟩
      · exact hw
      · exact h.intent

/-! ### The next head -/

/-- The engine has given its work back, and can take the front entry as head. -/
structure Free (s : State) : Prop where
  out : s.part ≠ .config
  part : s.part ≠ .stopping
  tags : DistinctTags s.queue
  released : Released s.engine
  queued : AllQueued s.queue.tail

theorem sound_takeHead {s : State} (h : Free s) : Sound (takeHead s) := by
  obtain ⟨unmarked, grant, startTimeout, overrun, settle⟩ := h.released
  obtain ⟨holdOff, expired, echo⟩ := unmarked
  have hreleased : ∀ state work, Released { s.engine with state := state, work := work } :=
    fun _ _ => ⟨⟨holdOff, expired, echo⟩, grant, startTimeout, overrun, settle⟩
  unfold takeHead
  split
  · next hq =>
    refine Upright.sound_of_steady ⟨h.out, h.tags, ?_⟩ (by simp) (by simp)
    simp only [State.modEngine_queue, hq]
    exact .idle rfl rfl (hreleased _ _)
  · next r rest hq =>
    have tags := hq ▸ h.tags
    have queued : AllQueued rest := by
      have := h.queued
      rwa [hq] at this
    refine Upright.sound_of_steady ⟨h.out, tags.cons_congr rfl, ?_⟩ (by simp) (by simp)
    exact .waiting rfl rfl (hreleased _ _) h.part rfl queued

/-- The completion of the head in WAITING leaves the engine free. -/
theorem free_completeRequest {s : State} {r r' : Request} {rest : List Request} (o : OutcomeCode)
    (h : Upright s) (hs : s.engine.state = .waiting) (hq : s.queue = r :: rest)
    (ht : r'.tag = r.tag) : Free (completeRequest r' o s) := by
  obtain ⟨r0, rest0, hq0, -, released, part, -, queued⟩ := h.standing.of_waiting hs
  rw [hq] at hq0
  cases hq0
  obtain ⟨hengine, hqueue⟩ := completeRequest_work r' o (steady_of_state hs (by decide) (by decide))
  have tags := hq ▸ h.tags
  rw [hq, removeTag_head tags ht] at hqueue
  have hpart := (keeps_completeRequest r' o s).part
  refine ⟨by rw [hpart]; exact h.out, by rw [hpart]; exact part, ?_, ?_, ?_⟩
  · rw [hqueue]
    exact tags.of_sublist ((List.sublist_cons_self _ _).map _)
  · rw [hengine]
    exact released
  · rw [hqueue]
    exact fun x hx => queued x (List.mem_of_mem_tail hx)

/-! ### Entering INTENT and GRANTED -/

theorem Request.deferred_of_eligible {r : Request} (h : r.eligible = true) :
    r.deferred = false := by
  unfold Request.eligible at h
  unfold Request.deferred
  split at h <;> simp_all

/-- A head that passes the tests is eligible, and no source is set. -/
theorem of_verdict_intent {s : State} {r : Request} (h : verdict s r = .intent) :
    s.holds.held = false ∧ r.eligible = true := by
  unfold verdict at h
  split at h
  · cases h
  · next hheld =>
    split at h
    · cases h
    · next heligible => exact ⟨by simpa using hheld, by simpa using heligible⟩

theorem sound_enterIntent {s : State} {r : Request} {rest : List Request} (h : Upright s)
    (hs : s.engine.state = .waiting) (hq : s.queue = r :: rest)
    (hv : verdict s r = .intent) : Sound (enterIntent s) := by
  obtain ⟨r0, rest0, hq0, work, released, part, -, queued⟩ := h.standing.of_waiting hs
  rw [hq] at hq0
  cases hq0
  obtain ⟨-, grant, startTimeout, overrun, settle⟩ := released
  obtain ⟨hheld, heligible⟩ := of_verdict_intent hv
  have hqueue : (enterIntent s).queue = r.at .intent :: rest := by
    simp [enterIntent, announce, headAt, hq, modFront]
  refine Upright.sound_of_not_held ⟨h.out, ?_, ?_⟩ hheld
  · rw [hqueue]
    exact (hq ▸ h.tags).cons_congr rfl
  · rw [hqueue]
    exact .intent rfl work grant startTimeout overrun settle part rfl
      (Request.deferred_of_eligible heligible) queued

theorem Request.granted_tag (now : Nat) (r : Request) : (r.granted now).tag = r.tag := by
  unfold Request.granted Request.modMove
  split <;> rfl

theorem Request.granted_position (now : Nat) (r : Request) :
    (r.granted now).position = .granted := by
  unfold Request.granted Request.modMove
  split <;> rfl

theorem Request.granted_deferred (now : Nat) (r : Request) :
    (r.granted now).deferred = r.deferred := by
  unfold Request.granted Request.modMove Request.deferred
  cases hj : r.job <;> simp

theorem sound_enterGranted {s : State} (h : Upright s) (hs : s.engine.state = .intent)
    (hheld : s.holds.held = false) : Sound (enterGranted s) := by
  obtain ⟨r, rest, hq, -, -, -, overrun, settle, part, -, deferred, queued⟩ :=
    h.standing.of_intent hs
  unfold enterGranted
  rw [hq]
  refine sound_announce (Upright.sound_of_not_held ⟨h.out, ?_, ?_⟩ hheld)
  · exact (hq ▸ h.tags).cons_congr (r.granted_tag s.now)
  · exact .granted rfl rfl rfl ⟨rfl, (r.granted_tag s.now).symm⟩ ⟨rfl, rfl, rfl⟩ rfl overrun settle
      part (r.granted_position s.now) ((r.granted_deferred s.now).trans deferred) queued

/-! ### Evaluations and the contest -/

theorem sound_evaluateN {s : State} (n : Nat) (h : Sound s) : Sound (evaluateN n s) := by
  induction n generalizing s with
  | zero => exact h
  | succ n ih =>
    unfold evaluateN
    split
    · next r rest hs hq =>
      split
      · exact h
      · exact ih (sound_takeHead (free_completeRequest _ h.toUpright hs hq rfl))
      · next hv => exact sound_enterIntent h.toUpright hs hq hv
    · exact h

theorem sound_evaluate {s : State} (h : Sound s) : Sound (evaluate s) := sound_evaluateN _ h

theorem sound_takeNext {s : State} (h : Free s) : Sound (takeNext s) :=
  sound_evaluate (sound_takeHead h)

theorem sound_yieldIntent {s : State} (h : Upright s) (hs : s.engine.state = .intent) :
    Sound (yieldIntent s) := by
  obtain ⟨r, rest, hq, work, grant, startTimeout, overrun, settle, part, -, -, queued⟩ :=
    h.standing.of_intent hs
  set y : State := announce <|
    (s.modQueue (modFront fun r => { r with position := .waiting, yields := r.yields + 1 })).modEngine
      fun e =>
        { e with
          state := .waiting
          holdOff := none
          expired := false
          echo := false
          yieldPause := some (later s.now s.cfg.holdOff) } with hy
  have hyq : y.queue = { r with position := .waiting, yields := r.yields + 1 } :: rest := by
    simp [hy, announce, hq, modFront]
  have hsound : Sound y := by
    refine Upright.sound_of_steady ⟨h.out, ?_, ?_⟩ (by simp [hy, announce]) (by simp [hy, announce])
    · rw [hyq]
      exact (hq ▸ h.tags).cons_congr rfl
    · rw [hyq]
      exact .waiting rfl work ⟨⟨rfl, rfl, rfl⟩, grant, startTimeout, overrun, settle⟩ part rfl queued
  unfold yieldIntent
  simp only [← hy, hyq]
  split
  · exact sound_takeNext (free_completeRequest _ hsound.toUpright rfl hyq rfl)
  · exact hsound

theorem sound_commitTest {s : State} (h : Upright s) (hs : s.engine.state = .intent) :
    Sound (commitTest s) := by
  unfold commitTest
  split_ifs with hheld
  · exact sound_evaluate (sound_withdraw h hs)
  · exact sound_evaluate (sound_withdraw h hs)
  · exact sound_yieldIntent h hs
  · exact sound_enterGranted h hs (by simpa using hheld)

theorem sound_intentTests {s : State} (atIntake : Bool) (h : Upright s)
    (hs : s.engine.state = .intent) : Sound (intentTests atIntake s) := by
  unfold intentTests
  split_ifs with hheld
  · exact sound_evaluate (sound_withdraw h hs)
  · exact sound_evaluate (sound_withdraw h hs)
  · exact sound_yieldIntent h hs
  · exact sound_commitTest h hs
  · exact h.sound_of_not_held (by simpa using hheld)

theorem sound_evalPoint {s : State} (atIntake : Bool) (h : Sound s) :
    Sound (evalPoint atIntake s) := by
  unfold evalPoint
  split
  · exact sound_evaluate h
  · next hs => exact sound_intentTests atIntake h.toUpright hs
  all_goals exact h

theorem sound_reportClear {s : State} (src : HoldSource) (h : Sound s) :
    Sound (reportClear src s) := by
  unfold reportClear
  split
  · exact h
  · dsimp only
    have hup : Upright (latchHold (s.modHolds fun h => h.put src false)) :=
      h.toUpright.congr rfl rfl rfl
    split
    · exact sound_heldEffect hup
    · next hheld => exact sound_evalPoint _ (hup.sound_of_not_held (by simpa using hheld))

theorem sound_reportGuard {s : State} (h : Sound s) : Sound (reportGuard s) := by
  unfold reportGuard
  split_ifs
  · exact sound_reportSet _ h
  · exact sound_reportClear _ h
  · exact h

end Sys2Proof.Machine
end

section
/-! SUPPORT. The request block keeps a sound engine: a request changed in its place, placed, taken out by
its position, or completed with a deferred outcome (R113 to R133). -/

namespace Sys2Proof.Machine

/-! ### Changes in place -/

theorem InPlace.refl (r : Request) : InPlace id r := ⟨rfl, rfl, rfl, id, fun _ _ h => h⟩

/-- A change of a sweep's fields that adds no deferred completion to work under way. -/
theorem inPlace_modSweep {f : SweepJob → SweepJob} {r : Request}
    (hcancel : ∀ w, w.cancelPending = true → (f w).cancelPending = true)
    (hdeferred : r.position ≠ .queued → r.position ≠ .waiting →
      ∀ w, (f w).unconfirmedPending = w.unconfirmedPending) :
    InPlace (Request.modSweep f) r := by
  cases hjob : r.job with
  | move m =>
    have hsame : Request.modSweep f r = r := by unfold Request.modSweep; rw [hjob]
    exact ⟨by rw [hsame], by rw [hsame], by rw [hsame], by rw [hsame]; exact id,
      by rw [hsame]; exact fun _ _ h => h⟩
  | sweep w =>
    have hnew : Request.modSweep f r = { r with job := .sweep (f w) } := by
      unfold Request.modSweep
      rw [hjob]
    refine ⟨by rw [hnew], by rw [hnew], ?_, fun h => ?_, fun h1 h2 h => ?_⟩
    · rw [hnew]
      simp only [Request.isSweep, hjob]
    · rw [hnew]
      simp only [Request.endsAtStop, hjob] at h ⊢
      exact hcancel w h
    · rw [hnew]
      simp only [Request.deferred, hjob] at h ⊢
      rw [hdeferred h1 h2 w, h]

/-- A change of a move's fields that adds no deferred completion to work under way. -/
theorem inPlace_modMove {f : MoveJob → MoveJob} {r : Request}
    (hdeferred : r.position ≠ .queued → r.position ≠ .waiting →
      ∀ m, (f m).expiredPending = m.expiredPending) :
    InPlace (Request.modMove f) r := by
  cases hjob : r.job with
  | sweep w =>
    have hsame : Request.modMove f r = r := by unfold Request.modMove; rw [hjob]
    exact ⟨by rw [hsame], by rw [hsame], by rw [hsame], by rw [hsame]; exact id,
      by rw [hsame]; exact fun _ _ h => h⟩
  | move m =>
    have hnew : Request.modMove f r = { r with job := .move (f m) } := by
      unfold Request.modMove
      rw [hjob]
    refine ⟨by rw [hnew], by rw [hnew], ?_, fun _ => ?_, fun h1 h2 h => ?_⟩
    · rw [hnew]
      simp only [Request.isSweep, hjob]
    · rw [hnew]
      rfl
    · rw [hnew]
      simp only [Request.deferred, hjob] at h ⊢
      rw [hdeferred h1 h2 m, h]

theorem sound_map {s : State} {f : Request → Request} (h : Sound s)
    (hf : ∀ r ∈ s.queue, InPlace f r) : Sound (s.modQueue (List.map f)) := by
  refine ⟨⟨h.out, ?_, h.standing.map hf⟩, h.blocks⟩
  have hsame : (s.queue.map f).map Request.tag = s.queue.map Request.tag := by
    rw [List.map_map]
    exact List.map_congr_left fun r hr => (hf r hr).tag
  exact h.tags.of_sublist (by rw [State.modQueue_queue, hsame])

/-- A change in place of the one request of a tag. -/
theorem sound_modTag {s : State} {f : Request → Request} {r : Request} (h : Sound s)
    (hr : r ∈ s.queue) (hf : InPlace f r) : Sound (s.modQueue (modTag r.tag f)) := by
  refine sound_map (f := fun x => if x.tag = r.tag then f x else x) h fun x hx => ?_
  by_cases ht : x.tag = r.tag
  · obtain rfl := h.tags.eq_of_tag hr hx ht
    obtain ⟨tag, position, sweep, ends, deferred⟩ := hf
    refine ⟨?_, ?_, ?_, ?_, ?_⟩ <;> rw [if_pos ht] <;> assumption
  · obtain ⟨tag, position, sweep, ends, deferred⟩ := InPlace.refl x
    refine ⟨?_, ?_, ?_, ?_, ?_⟩ <;> rw [if_neg ht] <;> assumption

/-- In a queue of distinct tags a change of the front entry is a change by its tag. -/
theorem modFront_eq_modTag {f : Request → Request} {r : Request} {rest : List Request}
    (h : DistinctTags (r :: rest)) : modFront f (r :: rest) = modTag r.tag f (r :: rest) := by
  have hrest : modTag r.tag f rest = rest := by
    calc modTag r.tag f rest
        = rest.map id := List.map_congr_left fun x hx => if_neg (h.head_ne x hx)
      _ = rest := List.map_id rest
  calc modFront f (r :: rest) = f r :: modTag r.tag f rest := by rw [hrest]; rfl
    _ = modTag r.tag f (r :: rest) := by
      unfold modTag
      rw [List.map_cons, if_pos rfl]

theorem sound_modFront {s : State} {f : Request → Request} {r : Request} {rest : List Request}
    (h : Sound s) (hq : s.queue = r :: rest) (hf : InPlace f r) :
    Sound (s.modQueue (modFront f)) := by
  have hsame : s.modQueue (modFront f) = s.modQueue (modTag r.tag f) := by
    unfold State.modQueue
    rw [hq, modFront_eq_modTag (hq ▸ h.tags)]
  rw [hsame]
  exact sound_modTag h (by rw [hq]; exact List.mem_cons_self) hf

/-! ### A request placed in the queue (R116) -/

/-- The requests behind a head that the placing leaves at the front. -/
def placedBehind (r : Request) (rest : List Request) : List Request :=
  match r.cls with
  | .normal => rest ++ [r]
  | .priority => priorities rest ++ r :: normals rest

theorem perm_priorities_normals (q : List Request) : (priorities q ++ normals q).Perm q := by
  have hsplit : normals q = q.filter fun r => !decide (r.cls = .priority) := by
    refine List.filter_congr fun r _ => ?_
    cases r.cls <;> rfl
  rw [hsplit]
  exact List.filter_append_perm _ _

theorem perm_placedBehind (r : Request) (rest : List Request) :
    (placedBehind r rest).Perm (r :: rest) := by
  unfold placedBehind
  split
  · exact List.perm_append_singleton r rest
  · exact List.perm_middle.trans ((perm_priorities_normals rest).cons r)

theorem placeRequest_nil (r : Request) : placeRequest r [] = [r] := by
  unfold placeRequest
  split <;> rfl

theorem placeRequest_inHands {h : Request} (r : Request) (rest : List Request)
    (hh : h.inHands = true) : placeRequest r (h :: rest) = h :: placedBehind r rest := by
  unfold placeRequest placedBehind
  cases r.cls with
  | normal => rfl
  | priority => exact if_pos hh

/-- The head as the placing of a PRIORITY request leaves it: a NORMAL one back in QUEUED. -/
def displacedHead (r h : Request) : Request :=
  match r.cls with
  | .normal => h
  | .priority => if h.cls = .normal then h.at .queued else h

theorem placeRequest_not_inHands {h : Request} (r : Request) (rest : List Request)
    (hh : h.inHands = false) : placeRequest r (h :: rest) =
      placedBehind r (displacedHead r h :: rest) := by
  unfold placeRequest placedBehind displacedHead
  cases r.cls with
  | normal => rfl
  | priority => simp [hh]

theorem displacedHead_tag (r h : Request) : (displacedHead r h).tag = h.tag := by
  unfold displacedHead
  split
  · rfl
  · split <;> rfl

/-- The placing adds the tag of the request to those of the queue. -/
theorem perm_placeRequest_tags (r : Request) (q : List Request) :
    ((placeRequest r q).map Request.tag).Perm (r.tag :: q.map Request.tag) := by
  cases q with
  | nil => rw [placeRequest_nil]; exact List.Perm.refl _
  | cons h rest =>
    cases hh : h.inHands with
    | true =>
      rw [placeRequest_inHands r rest hh]
      exact (((perm_placedBehind r rest).map _).cons h.tag).trans (List.Perm.swap _ _ _)
    | false =>
      rw [placeRequest_not_inHands r rest hh]
      refine ((perm_placedBehind r _).map _).trans ?_
      rw [List.map_cons, List.map_cons, displacedHead_tag, List.map_cons]

theorem distinctTags_placeRequest {r : Request} {q : List Request} (h : DistinctTags q)
    (hfresh : ∀ x ∈ q, x.tag ≠ r.tag) (h0 : r.tag ≠ 0) : DistinctTags (placeRequest r q) := by
  obtain ⟨hnodup, hzero⟩ := (distinctTags_iff q).1 h
  have hnew : r.tag ∉ q.map Request.tag := by
    simpa only [List.mem_map, not_exists, not_and] using hfresh
  have hperm := perm_placeRequest_tags r q
  rw [distinctTags_iff]
  refine ⟨hperm.nodup_iff.2 (List.nodup_cons.2 ⟨hnew, hnodup⟩), fun hmem => ?_⟩
  rcases List.mem_cons.1 (hperm.mem_iff.1 hmem) with hc | hc
  · exact h0 hc.symm
  · exact hzero hc

theorem allQueued_placedBehind {r : Request} {rest : List Request} (h : AllQueued rest)
    (hr : r.position = .queued) : AllQueued (placedBehind r rest) := by
  intro x hx
  rcases List.mem_cons.1 ((perm_placedBehind r rest).mem_iff.1 hx) with rfl | hx
  · exact hr
  · exact h x hx

theorem inHands_of_queued {r : Request} (h : r.position = .queued) : r.inHands = false := by
  unfold Request.inHands
  rw [h]

theorem inHands_of_waiting {r : Request} (h : r.position = .waiting) : r.inHands = false := by
  unfold Request.inHands
  rw [h]

theorem displacedHead_queued {r h : Request} (hh : h.position = .queued) :
    (displacedHead r h).position = .queued := by
  unfold displacedHead
  split
  · exact hh
  · split
    · rfl
    · exact hh

theorem allQueued_placeRequest {r : Request} {q : List Request} (h : AllQueued q)
    (hr : r.position = .queued) : AllQueued (placeRequest r q) := by
  cases q with
  | nil =>
    rw [placeRequest_nil]
    exact List.forall_mem_singleton.2 hr
  | cons x rest =>
    have hx := h x List.mem_cons_self
    rw [placeRequest_not_inHands r rest (inHands_of_queued hx)]
    refine allQueued_placedBehind (fun y hy => ?_) hr
    rcases List.mem_cons.1 hy with rfl | hy
    · exact displacedHead_queued hx
    · exact h y (List.mem_cons_of_mem _ hy)

/-- Behind the entry that is taken as head all requests are QUEUED. -/
theorem allQueued_tail_placeRequest {r h : Request} {rest : List Request} (hq : AllQueued rest)
    (hh : h.position = .waiting) (hr : r.position = .queued) :
    AllQueued (placeRequest r (h :: rest)).tail := by
  rw [placeRequest_not_inHands r rest (inHands_of_waiting hh)]
  unfold placedBehind displacedHead
  have hsub : ∀ {l : List Request} (f : Request → Bool), AllQueued l → AllQueued (l.filter f) :=
    fun f hl => allQueued_filter hl f
  cases r.cls with
  | normal =>
    intro x hx
    rcases List.mem_append.1 hx with hx | hx
    · exact hq x hx
    · rw [List.mem_singleton.1 hx]
      exact hr
  | priority =>
    cases hcls : h.cls with
    | normal =>
      have hall : AllQueued (h.at .queued :: rest) := fun x hx => by
        rcases List.mem_cons.1 hx with rfl | hx
        · rfl
        · exact hq x hx
      intro x hx
      have hx := List.mem_of_mem_tail hx
      simp only [if_true, List.mem_append, List.mem_cons] at hx
      rcases hx with hx | rfl | hx
      · exact hsub _ hall x hx
      · exact hr
      · exact hsub _ hall x hx
    | priority =>
      intro x hx
      simp only [reduceCtorEq, if_false, priorities, normals, List.filter_cons, hcls, decide_true,
        decide_false, if_true, Bool.false_eq_true, List.cons_append, List.tail_cons,
        List.mem_append, List.mem_cons] at hx
      rcases hx with hx | rfl | hx
      · exact hsub _ hq x hx
      · exact hr
      · exact hsub _ hq x hx

/-- Work in the engine's hands stands on when a request is placed in RUNNING. -/
theorem Standing.place {p : PartState} {e : Engine} {q : List Request} {r : Request}
    (h : Standing p e q) (hp : p ≠ .stopping) (hr : r.position = .queued) (h1 : e.state ≠ .idle)
    (h2 : e.state ≠ .waiting) : Standing p e (placeRequest r q) := by
  have hplace : ∀ {x : Request} {rest : List Request} {pos : Position}, x.position = pos →
      (pos = .intent ∨ pos = .granted ∨ pos = .moving ∨ pos = .settling) →
      placeRequest r (x :: rest) = x :: placedBehind r rest := fun {x rest pos} hx hpos => by
    refine placeRequest_inHands r rest ?_
    unfold Request.inHands
    rw [hx]
    rcases hpos with rfl | rfl | rfl | rfl <;> rfl
  cases h with
  | idle state => exact absurd state h1
  | waiting state => exact absurd state h2
  | intent state work grant startTimeout overrun settle part position deferred queued =>
    rw [hplace position (.inl rfl)]
    exact .intent state work grant startTimeout overrun settle part position deferred
      (allQueued_placedBehind queued hr)
  | granted state work grant names unmarked startTimeout overrun settle part position deferred
      queued =>
    rw [hplace position (.inr (.inl rfl))]
    exact .granted state work grant names unmarked startTimeout overrun settle part position
      deferred (allQueued_placedBehind queued hr)
  | grantedPark state work grant names unmarked startTimeout overrun settle queued =>
    exact .grantedPark state work grant names unmarked startTimeout overrun settle
      (allQueued_placeRequest queued hr) fun hc => absurd hc hp
  | moving state work grant names unmarked startTimeout settle position deferred queued =>
    rw [hplace position (.inr (.inr (.inl rfl)))]
    exact .moving state work grant names unmarked startTimeout settle position deferred
      (allQueued_placedBehind queued hr) fun hc => absurd hc hp
  | movingPark state work grant names unmarked startTimeout settle queued =>
    exact .movingPark state work grant names unmarked startTimeout settle
      (allQueued_placeRequest queued hr) fun hc => absurd hc hp
  | settling state work grant unmarked startTimeout overrun settle part position sweep deferred
      queued =>
    rw [hplace position (.inr (.inr (.inr rfl)))]
    exact .settling state work grant unmarked startTimeout overrun settle part position sweep
      deferred (allQueued_placedBehind queued hr)
  | settlingAlone state work grant unmarked startTimeout overrun settle part queued =>
    exact .settlingAlone state work grant unmarked startTimeout overrun settle part
      (allQueued_placeRequest queued hr)

/-- In IDLE and WAITING the front entry can be taken as head after the placing. -/
theorem free_place {s : State} {r : Request} (h : Upright s) (hp : s.part ≠ .stopping)
    (hr : r.position = .queued) (hfresh : ∀ x ∈ s.queue, x.tag ≠ r.tag) (h0 : r.tag ≠ 0)
    (hs : s.engine.state = .idle ∨ s.engine.state = .waiting) :
    Free (s.modQueue (placeRequest r)) := by
  refine ⟨h.out, hp, distinctTags_placeRequest h.tags hfresh h0, ?_, ?_⟩
  · rcases hs with hs | hs
    · cases hst : s.queue <;> have hstand := h.standing <;> rw [hst] at hstand <;>
        cases hstand <;> simp_all
    · obtain ⟨-, -, -, -, released, -⟩ := h.standing.of_waiting hs
      exact released
  · rcases hs with hs | hs
    · rw [State.modQueue_queue, h.standing.eq_nil hs, placeRequest_nil]
      exact List.forall_mem_nil _
    · obtain ⟨x, rest, hq, -, -, -, hx, hrest⟩ := h.standing.of_waiting hs
      rw [State.modQueue_queue, hq]
      exact allQueued_tail_placeRequest hrest hx hr

theorem sound_acceptRequest {s : State} {r : Request} (h : Sound s) (hp : s.part ≠ .stopping)
    (hr : r.position = .queued) (hfresh : ∀ x ∈ s.queue, x.tag ≠ r.tag) (h0 : r.tag ≠ 0) :
    Sound (acceptRequest r s) := by
  have hplaced : s.engine.state ≠ .idle → s.engine.state ≠ .waiting →
      Sound (s.modQueue (placeRequest r)) := fun h1 h2 =>
    ⟨⟨h.out, distinctTags_placeRequest h.tags hfresh h0, h.standing.place hp hr h1 h2⟩, h.blocks⟩
  unfold acceptRequest
  refine sound_evalPoint false ?_
  split
  · next hs => exact sound_takeHead (free_place h.toUpright hp hr hfresh h0 (.inl hs))
  · next hs => exact sound_takeHead (free_place h.toUpright hp hr hfresh h0 (.inr hs))
  all_goals
    next hs => exact hplaced (by rw [hs]; nofun) (by rw [hs]; nofun)

end Sys2Proof.Machine
end

section
/-! SUPPORT. Completions by position, and the engine's own events, keep a sound engine (R119, R122, R131,
R151 to R156, R169 to R173, R179). -/

namespace Sys2Proof.Machine

/-! ### A request by its position -/

theorem positionIn_injective : Function.Injective positionIn := by
  intro a b h
  cases a <;> cases b <;> revert h <;> decide

/-- A request outside QUEUED tells the engine's state, and stands at the front. -/
theorem Standing.head_at {p : PartState} {e : Engine} {q : List Request} (h : Standing p e q)
    {r : Request} (hr : r ∈ q) {st : EngineState} (hpos : r.position = positionIn st)
    (hst : st ≠ .idle) : e.state = st ∧ e.work = .request ∧ ∃ rest, q = r :: rest := by
  have hne : r.position ≠ .queued := by
    rw [hpos]
    exact fun hc => hst (positionIn_injective (hc.trans rfl))
  obtain ⟨work, position, front⟩ := h.head_of_position hr hne
  exact ⟨positionIn_injective (position.symm.trans hpos), work, front⟩

theorem Standing.position_of_deferred {p : PartState} {e : Engine} {q : List Request}
    (h : Standing p e q) {r : Request} (hr : r ∈ q) (hd : r.deferred = true) :
    r.position = .queued ∨ r.position = .waiting := h.deferred r hr hd

/-- The head in WAITING completes, and the next one is taken. -/
theorem sound_completeHead {s : State} {r x : Request} (o : OutcomeCode) (h : Sound s)
    (hx : x ∈ s.queue) (ht : r.tag = x.tag) (hpos : x.position = .waiting) :
    Sound (takeNext (completeRequest r o s)) := by
  obtain ⟨hs, -, rest, hq⟩ := h.standing.head_at hx (st := .waiting) hpos nofun
  exact sound_takeNext (free_completeRequest o h.toUpright hs hq ht)

/-- The intent of a request is withdrawn and the request completes (R119, R122). -/
theorem sound_withdraw_complete {s : State} {r : Request} (o : OutcomeCode) (h : Sound s)
    (hr : r ∈ s.queue) (hpos : r.position = .intent) :
    Sound (takeNext (completeRequest r o (withdraw s))) := by
  obtain ⟨hs, -, rest, hq⟩ := h.standing.head_at hr (st := .intent) hpos nofun
  have hqueue : (withdraw s).queue = r.at .waiting :: rest := by
    simp [withdraw, announce, headAt, hq, modFront]
  exact sound_completeHead (x := r.at .waiting) o (sound_withdraw h.toUpright hs)
    (by rw [hqueue]; exact List.mem_cons_self) rfl rfl

/-- The grant of a request lapses and the request completes (R119). -/
theorem sound_lapse_complete {s : State} {r : Request} (o : OutcomeCode) (h : Sound s)
    (hr : r ∈ s.queue) (hpos : r.position = .granted) :
    Sound (takeNext (completeRequest r o (lapse s))) := by
  obtain ⟨hs, hw, rest, hq⟩ := h.standing.head_at hr (st := .granted) hpos nofun
  have hqueue : (lapse s).queue = r.at .waiting :: rest := by
    simp [lapse, announce, headAt, hq, modFront]
  exact sound_completeHead (x := r.at .waiting) o (sound_lapse h.toUpright hs hw)
    (by rw [hqueue]; exact List.mem_cons_self) rfl rfl

theorem settle_isSome_iff {e : Engine} (h : timersAgree e) :
    e.settle.isSome = true ↔ e.state = .settling := by
  obtain ⟨-, -, -, -, -, settle⟩ := h
  exact settle

/-- A sweep in SETTLING leaves the engine to settle alone (R119, R131). -/
theorem sound_complete_settling {s : State} {r x : Request} (o : OutcomeCode) (h : Sound s)
    (hx : x ∈ s.queue) (ht : r.tag = x.tag) (hpos : x.position = .settling) :
    Sound (completeRequest r o (s.modEngine fun e => { e with work := .none })) := by
  obtain ⟨hs, hw, rest, hq⟩ := h.standing.head_at hx (st := .settling) hpos nofun
  have hsteady : Steady (s.modEngine fun e => { e with work := .none }) :=
    steady_of_state hs nofun nofun
  obtain ⟨hengine, hqueue⟩ := completeRequest_work r o hsteady
  have tags := hq ▸ h.tags
  have htail := h.standing.tail_queued
  rw [State.modEngine_queue, hq, removeTag_head tags ht] at hqueue
  rw [hq] at htail
  obtain ⟨⟨holdOff, expired, echo⟩, startTimeout, overrun, part, -⟩ := h.standing.of_settling hs
  have hagree := h.standing.grantAgrees
  have settle := (settle_isSome_iff h.standing.timersAgree).2 hs
  unfold grantAgrees at hagree
  rw [hs] at hagree
  have hpart := (keeps_completeRequest r o (s.modEngine fun e => { e with work := .none })).part
  refine Upright.sound_of_steady ⟨by rw [hpart]; exact h.out, ?_, ?_⟩
    (by rw [hengine]; exact hsteady.intent) (by rw [hengine]; exact hsteady.granted)
  · rw [hqueue]
    exact tags.of_sublist ((List.sublist_cons_self _ _).map _)
  · rw [hpart, hengine, hqueue]
    exact .settlingAlone hs rfl hagree ⟨holdOff, expired, echo⟩ startTimeout overrun settle part htail

/-! ### CANCEL, expiry and under-run -/

theorem sound_cancelRequest {s : State} {r : Request} (h : Sound s) (hr : r ∈ s.queue) :
    Sound (cancelRequest r s) := by
  unfold cancelRequest
  split
  · next hpos => exact sound_completeRequest _ h hr rfl hpos
  · next hpos => exact sound_completeHead _ h hr rfl hpos
  · next hpos => exact sound_withdraw_complete _ h hr hpos
  · next hpos => exact sound_lapse_complete _ h hr hpos
  · exact sound_modTag h hr (inPlace_modSweep (fun _ _ => rfl) fun _ _ _ => rfl)
  · next hpos => exact sound_complete_settling _ h hr rfl hpos

theorem sound_expireRequest {s : State} {r : Request} (h : Sound s) (hr : r ∈ s.queue) :
    Sound (expireRequest r s) := by
  have hbefore : r.position = .queued ∨ r.position = .waiting →
      Sound (if guardLevel s then
          s.modQueue <| modTag r.tag <| Request.modMove fun m =>
            { m with expiryRuns := false, expiredPending := true }
        else if r.position = .waiting then takeNext (completeRequest r .expired s)
        else completeRequest r .expired s) := by
    intro hpos
    split
    · refine sound_modTag h hr (inPlace_modMove fun h1 h2 => ?_)
      rcases hpos with hpos | hpos
      · exact absurd hpos h1
      · exact absurd hpos h2
    · split
      · next hw => exact sound_completeHead _ h hr rfl hw
      · next hw => exact sound_completeRequest _ h hr rfl (hpos.resolve_right hw)
  unfold expireRequest
  split
  · next hpos => exact sound_withdraw_complete _ h hr hpos
  · next hpos => exact hbefore (.inl hpos)
  · next hpos => exact hbefore (.inr hpos)
  all_goals exact h

theorem sound_underrunEnd {s : State} {r x : Request} (h : Sound s) (hx : x ∈ s.queue)
    (ht : r.tag = x.tag) (hp : x.position = r.position) : Sound (underrunEnd r s) := by
  have hbefore : r.position = .queued ∨ r.position = .waiting →
      Sound (if guardLevel s then
          s.modQueue (modTag r.tag (Request.modSweep fun w => { w with unconfirmedPending := true }))
        else if r.position = .waiting then takeNext (completeRequest r .unconfirmed s)
        else completeRequest r .unconfirmed s) := by
    intro hpos
    split
    · rw [ht]
      refine sound_modTag h hx (inPlace_modSweep (fun _ hc => hc) fun h1 h2 => ?_)
      rcases hpos with hpos | hpos
      · exact absurd (hp.trans hpos) h1
      · exact absurd (hp.trans hpos) h2
    · split
      · next hw => exact sound_completeHead _ h hx ht (hp.trans hw)
      · next hw => exact sound_completeRequest _ h hx ht.symm (hp.trans (hpos.resolve_right hw))
  unfold underrunEnd
  split
  · next hpos => exact sound_complete_settling _ h hx ht (hp.trans hpos)
  · next hpos => exact hbefore (.inl hpos)
  · next hpos => exact hbefore (.inr hpos)
  all_goals exact h

theorem sound_latchUnderrun {s : State} (h : Sound s) : Sound (latchUnderrun s) :=
  h.congr rfl rfl rfl rfl

theorem sound_stepBecomesEligible {s : State} (r : Request) (h : Sound s) :
    Sound (stepBecomesEligible r s) := by
  unfold stepBecomesEligible
  split
  · exact sound_evalPoint _ h
  · exact h

theorem mem_modTag {q : List Request} {r : Request} (f : Request → Request) (hr : r ∈ q) :
    f r ∈ modTag r.tag f q := List.mem_map.2 ⟨r, hr, if_pos rfl⟩

theorem sound_judgePace {s : State} {r : Request} (w : SweepJob) (h : Sound s)
    (hr : r ∈ s.queue) : Sound (judgePace r w s) := by
  have hplace : ∀ d, InPlace (Request.modSweep fun v => { v with paceDeadline := d }) r :=
    fun _ => inPlace_modSweep (fun _ hc => hc) fun _ _ _ => rfl
  have hcleared := sound_modTag h hr (hplace none)
  unfold judgePace
  dsimp only
  split
  · exact hcleared
  · split
    · exact sound_stepBecomesEligible r hcleared
    · split
      · exact sound_stepBecomesEligible r (sound_latchUnderrun hcleared)
      · exact sound_latchUnderrun (sound_modTag h hr (hplace _))
      · exact sound_underrunEnd hcleared (mem_modTag _ hr) (hplace none).tag.symm
          (hplace none).position

/-! ### The deferred completions (R179) -/

theorem sound_completeDeferred {s : State} (n : Nat) (h : Sound s) :
    Sound (completeDeferred n s) := by
  induction n generalizing s with
  | zero => exact h
  | succ n ih =>
    unfold completeDeferred
    split
    · exact h
    · split
      · exact h
      · next r hfirst =>
        have hr : r ∈ s.queue := List.mem_of_find?_eq_some hfirst
        have hd : r.deferred = true := List.find?_some hfirst
        have hpos := h.standing.position_of_deferred hr hd
        dsimp only
        split
        · next hw => exact ih (sound_completeHead _ h hr rfl hw)
        · next hw => exact ih (sound_completeRequest _ h hr rfl (hpos.resolve_right hw))

/-! ### BEGUN -/

theorem sound_enterMoving {s : State} {g : Grant} (h : Upright s) (hs : s.engine.state = .granted)
    : Sound (enterMoving g s) := by
  rw [enterMoving_eq_announce]
  refine sound_announce (Upright.sound_of_steady ?_ nofun nofun)
  have hstand := h.standing
  cases hw : s.engine.work with
  | none =>
    have := hstand.carries
    rw [hs, hw] at this
    cases this
  | request =>
    obtain ⟨r, rest, g', hq, hgrant, names, unmarked, overrun, settle, part, -, deferred, queued⟩ :=
      hstand.of_granted hs hw
    obtain ⟨holdOff, expired, echo⟩ := unmarked
    have hqueue : (movingEntered g s).queue = { r with position := .moving } :: rest := by
      simp [movingEntered, hw, hq, modFront]
    refine ⟨h.out, ?_, ?_⟩
    · rw [hqueue]
      exact (hq ▸ h.tags).cons_congr rfl
    · rw [hqueue]
      exact .moving rfl hw hgrant ⟨names.work, names.tag⟩ ⟨holdOff, expired, echo⟩ rfl settle rfl
        deferred queued fun hc => absurd hc part
  | park =>
    have hqueue : (movingEntered g s).queue = s.queue := by simp [movingEntered, hw]
    refine ⟨h.out, by rw [hqueue]; exact h.tags, ?_⟩
    rw [hqueue]
    have hpart : (movingEntered g s).part = s.part := rfl
    rw [hpart]
    generalize s.queue = q at hstand
    cases hstand with
    | grantedPark _ _ grant names unmarked _ _ settle queued stopping =>
      obtain ⟨holdOff, expired, echo⟩ := unmarked
      exact .movingPark rfl hw grant names ⟨holdOff, expired, echo⟩ rfl settle queued stopping
    | _ => simp_all

end Sys2Proof.Machine
end

section
/-! SUPPORT. The end of a move, the park, STOP and the engine's expiries keep a sound engine (R149 to R156,
R166 to R173). -/

namespace Sys2Proof.Machine

/-! ### After an ENDED -/

/-- What an ENDED leaves of the head work: nothing, or a sweep that goes on (R125, R154). -/
inductive Aftermath (p : PartState) (e : Engine) (q : List Request) : Prop
  | alone (work : e.work = .none) (queued : AllQueued q) (stopping : p = .stopping → q = [])
  | sweep {r : Request} {rest : List Request} (front : q = r :: rest) (work : e.work = .request)
      (position : r.position = .moving) (isSweep : r.isSweep = true) (deferred : r.deferred = false)
      (queued : AllQueued rest) (part : p ≠ .stopping)

/-- The engine between steps 4 and 5 of R154: still in MOVING, its timers stopped. -/
structure Ending (s : State) : Prop where
  out : s.part ≠ .config
  tags : DistinctTags s.queue
  state : s.engine.state = .moving
  unmarked : Unmarked s.engine
  startTimeout : s.engine.startTimeout = none
  overrun : s.engine.overrun = none
  settle : s.engine.settle = none
  grant : s.engine.grant ≠ none
  aftermath : Aftermath s.part s.engine s.queue

theorem Ending.steady {s : State} (h : Ending s) : Steady s :=
  steady_of_state h.state nofun nofun

theorem Ending.congr {s t : State} (h : Ending s) (k : SameWork s t) (hp : t.part = s.part) :
    Ending t := by
  obtain ⟨out, tags, state, unmarked, startTimeout, overrun, settle, grant, aftermath⟩ := h
  obtain ⟨hengine, hqueue⟩ := k
  constructor <;> (try rw [hp]) <;> (try rw [hengine]) <;> (try rw [hqueue]) <;> assumption

/-- The tail of what an ENDED leaves is QUEUED. -/
theorem Aftermath.tail_queued {p : PartState} {e : Engine} {q : List Request}
    (h : Aftermath p e q) : AllQueued q.tail := by
  cases h with
  | alone _ queued => exact fun x hx => queued x (List.mem_of_mem_tail hx)
  | sweep front _ _ _ _ queued => rw [front]; exact queued

theorem sound_endSettling {s : State}
    (h : Free (s.modEngine fun e => { e with settle := none, grant := none })) :
    Sound (endSettling s) := sound_evaluate (sound_announce (sound_takeHead h))

theorem sound_enterSettling {s : State} (h : Ending s) (hp : s.part ≠ .stopping) :
    Sound (enterSettling s) := by
  obtain ⟨out, tags, state, ⟨holdOff, expired, echo⟩, startTimeout, overrun, settle, grant,
    aftermath⟩ := h
  cases aftermath with
  | alone work queued stopping =>
    have hqueue : (enterSettling s).queue = s.queue := by simp [enterSettling, announce, work]
    have hengine : (enterSettling s).engine =
        { s.engine with state := .settling, settle := some (later s.now s.cfg.ownSettle) } := by
      simp [enterSettling, announce, work]
    have hpart := (keeps_enterSettling s).part
    refine Upright.sound_of_steady ⟨by rw [hpart]; exact out, by rw [hqueue]; exact tags, ?_⟩
      (by rw [hengine]; nofun) (by rw [hengine]; nofun)
    rw [hpart, hqueue, hengine]
    exact .settlingAlone rfl work grant ⟨holdOff, expired, echo⟩ startTimeout overrun rfl hp queued
  | @sweep r rest front work position isSweep deferred queued part =>
    have hqueue : (enterSettling s).queue = r.at .settling :: rest := by
      simp [enterSettling, announce, work, headAt, front, modFront]
    have hengine : (enterSettling s).engine =
        { s.engine with state := .settling, settle := some (later s.now s.cfg.ownSettle) } := by
      simp [enterSettling, announce, work, headAt]
    have hpart := (keeps_enterSettling s).part
    refine Upright.sound_of_steady ⟨by rw [hpart]; exact out, ?_, ?_⟩
      (by rw [hengine]; nofun) (by rw [hengine]; nofun)
    · rw [hqueue]
      exact (front ▸ tags).cons_congr rfl
    · rw [hpart, hqueue, hengine]
      exact .settling rfl work grant ⟨holdOff, expired, echo⟩ startTimeout overrun rfl hp rfl
        isSweep deferred queued

theorem sound_afterEnded {s : State} (h : Ending s) : Sound (afterEnded s) := by
  obtain ⟨out, tags, state, ⟨holdOff, expired, echo⟩, startTimeout, overrun, settle, grant,
    aftermath⟩ := id h
  unfold afterEnded
  split_ifs with hp h0
  · have hnil : s.queue = [] := by
      cases aftermath with
      | alone _ _ stopping => exact stopping hp
      | sweep _ _ _ _ _ _ part => exact absurd hp part
    refine sound_announce (Upright.sound_of_steady ⟨out, tags, ?_⟩ nofun nofun)
    rw [State.modEngine_queue, hnil]
    exact .idle rfl rfl ⟨⟨holdOff, expired, echo⟩, rfl, startTimeout, overrun, settle⟩
  · exact sound_endSettling ⟨out, hp, tags,
      ⟨⟨holdOff, expired, echo⟩, rfl, startTimeout, overrun, rfl⟩, aftermath.tail_queued⟩
  · exact sound_enterSettling h hp

/-! ### The end of a step (R125, R126) -/

theorem Standing.of_moving {p : PartState} {e : Engine} {q : List Request} (h : Standing p e q)
    (hs : e.state = .moving) (hw : e.work = .request) :
    ∃ r rest g, q = r :: rest ∧ e.grant = some g ∧ Unmarked e ∧ e.startTimeout = none ∧
      e.settle = none ∧ r.position = .moving ∧ r.deferred = false ∧ AllQueued rest ∧
      (p = .stopping → rest = [] ∧ r.endsAtStop = true) := by
  cases h with
  | moving _ _ grant _ unmarked startTimeout settle position deferred queued stopping =>
    exact ⟨_, _, _, rfl, grant, unmarked, startTimeout, settle, position, deferred, queued, stopping⟩
  | _ => simp_all

theorem Standing.of_movingPark {p : PartState} {e : Engine} {q : List Request}
    (h : Standing p e q) (hs : e.state = .moving) (hw : e.work = .park) :
    ∃ g, e.grant = some g ∧ Unmarked e ∧ e.startTimeout = none ∧ e.settle = none ∧ AllQueued q ∧
      (p = .stopping → q = []) := by
  cases h with
  | movingPark _ _ grant _ unmarked startTimeout settle queued stopping =>
    exact ⟨_, grant, unmarked, startTimeout, settle, queued, stopping⟩
  | _ => simp_all

/-- The completion of the request whose move has ended leaves the engine without work. -/
theorem ending_completeRequest {s : State} {r r' : Request} {rest : List Request}
    (o : OutcomeCode) (h : Upright s) (hs : s.engine.state = .moving)
    (hw : s.engine.work = .request) (ho : s.engine.overrun = none) (hq : s.queue = r :: rest)
    (ht : r'.tag = r.tag) :
    Ending (completeRequest r' o (s.modEngine fun e => { e with work := .none })) := by
  obtain ⟨r0, rest0, g, hq0, grant, ⟨holdOff, expired, echo⟩, startTimeout, settle, -, -, queued,
    stopping⟩ := h.standing.of_moving hs hw
  rw [hq] at hq0
  cases hq0
  have hsteady : Steady (s.modEngine fun e => { e with work := .none }) :=
    steady_of_state hs nofun nofun
  obtain ⟨hengine, hqueue⟩ := completeRequest_work r' o hsteady
  have tags := hq ▸ h.tags
  rw [State.modEngine_queue, hq, removeTag_head tags ht] at hqueue
  have hpart := (keeps_completeRequest r' o (s.modEngine fun e => { e with work := .none })).part
  refine ⟨by rw [hpart]; exact h.out, ?_, by rw [hengine]; exact hs, ?_, by rw [hengine]; exact startTimeout,
    by rw [hengine]; exact ho, by rw [hengine]; exact settle, ?_, ?_⟩
  · rw [hqueue]
    exact tags.of_sublist ((List.sublist_cons_self _ _).map _)
  · rw [hengine]
    exact ⟨holdOff, expired, echo⟩
  · rw [hengine, State.modEngine_engine, grant]
    nofun
  · rw [hpart, hengine, hqueue]
    exact .alone rfl queued fun hp => (stopping hp).1

/-- The front request goes on as head after its step. -/
theorem ending_goesOn {s t : State} {r r' : Request} {rest : List Request} (h : Upright s)
    (hs : s.engine.state = .moving) (hw : s.engine.work = .request)
    (ho : s.engine.overrun = none) (hq : s.queue = r :: rest) (ht : r'.tag = r.tag)
    (hposition : r'.position = r.position) (hsweep : r'.isSweep = true)
    (hdeferred : r'.deferred = r.deferred) (hends : r.endsAtStop = false)
    (hpart : t.part = s.part) (hengine : t.engine = s.engine) (hqueue : t.queue = r' :: rest) :
    Ending t := by
  obtain ⟨r0, rest0, g, hq0, grant, unmarked, startTimeout, settle, position, deferred, queued,
    stopping⟩ := h.standing.of_moving hs hw
  rw [hq] at hq0
  cases hq0
  refine ⟨by rw [hpart]; exact h.out, ?_, by rw [hengine]; exact hs, by rw [hengine]; exact unmarked,
    by rw [hengine]; exact startTimeout, by rw [hengine]; exact ho, by rw [hengine]; exact settle,
    by rw [hengine, grant]; nofun, ?_⟩
  · rw [hqueue]
    exact (hq ▸ h.tags).cons_congr ht
  · rw [hpart, hengine, hqueue]
    refine .sweep rfl hw (hposition.trans position) hsweep (hdeferred.trans deferred) queued
      fun hp => ?_
    have := (stopping hp).2
    rw [hends] at this
    cases this

theorem ending_finishStep {s : State} (h : Upright s) (hs : s.engine.state = .moving)
    (hw : s.engine.work = .request) (ho : s.engine.overrun = none) : Ending (finishStep s) := by
  obtain ⟨r, rest, g, hq, -⟩ := h.standing.of_moving hs hw
  unfold finishStep
  rw [hq]
  dsimp only
  cases hjob : r.job with
  | move m => exact ending_completeRequest _ h hs hw ho hq rfl
  | sweep w =>
    dsimp only
    split_ifs with hcancel hdone hext
    · exact ending_completeRequest _ h hs hw ho hq rfl
    · refine ending_goesOn (r := r) h hs hw ho hq ?_ ?_ ?_ ?_ ?_ rfl rfl rfl
      · rfl
      · rfl
      · rfl
      · simp [Request.deferred, hjob, stepEnded]
      · simp [Request.endsAtStop, hjob, hcancel]
    · exact ending_completeRequest _ h hs hw ho hq rfl
    · refine ending_goesOn (r := r) h hs hw ho hq ?_ ?_ ?_ ?_ ?_ rfl rfl rfl
      · rfl
      · rfl
      · rfl
      · simp [Request.deferred, hjob, stepEnded]
      · simp [Request.endsAtStop, hjob, hcancel]

/-! ### The park -/

/-- The engine can be given the park: nothing runs that the entry to GRANTED would leave running. -/
structure ParkReady (s : State) : Prop where
  out : s.part ≠ .config
  tags : DistinctTags s.queue
  holdOff : s.engine.holdOff = none
  startTimeout : s.engine.startTimeout = none
  overrun : s.engine.overrun = none
  behind : AllQueued s.queue.tail
  others : s.engine.work ≠ .request → AllQueued s.queue
  stopping : s.part = .stopping → s.queue = []

theorem Request.displacedByPark_tag (r : Request) : r.displacedByPark.tag = r.tag := by
  unfold Request.displacedByPark Request.modSweep
  split <;> rfl

theorem Request.displacedByPark_position (r : Request) : r.displacedByPark.position = .queued := by
  unfold Request.displacedByPark Request.modSweep
  split <;> rfl

/-- The queue after the entry to GRANTED for the park (R169). -/
theorem enterGrantedPark_queue (s : State) : (enterGrantedPark s).queue =
    if s.engine.work = .request then modFront Request.displacedByPark s.queue else s.queue := by
  cases hw : s.engine.work <;> simp [enterGrantedPark, announce, hw]

/-- The park's grant (R169). -/
def parkGrant (s : State) : Grant where
  work := .park
  tag := 0
  cls := .priority
  move := s.builder.move + 1
  fromOffset := s.engine.offset
  target := parkTarget s.cfg
  duration := moveDuration s.cfg (parkTarget s.cfg - s.engine.offset)

/-- The engine after the entry to GRANTED for the park (R169). -/
theorem enterGrantedPark_engine (s : State) : (enterGrantedPark s).engine =
    { s.engine with
      state := .granted, work := .park, grant := some (parkGrant s)
      echo := false, expired := false, settle := none } := by
  cases hw : s.engine.work <;> simp [enterGrantedPark, announce, hw, parkGrant]

theorem sound_enterGrantedPark {s : State} (h : ParkReady s) : Sound (enterGrantedPark s) := by
  obtain ⟨out, tags, holdOff, startTimeout, overrun, behind, others, stopping⟩ := h
  have hpart := (keeps_enterGrantedPark s).part
  have htags : DistinctTags (enterGrantedPark s).queue ∧ AllQueued (enterGrantedPark s).queue ∧
      (s.part = .stopping → (enterGrantedPark s).queue = []) := by
    rw [enterGrantedPark_queue]
    split_ifs with hw
    · cases hq : s.queue with
      | nil =>
        rw [hq] at tags
        exact ⟨tags, List.forall_mem_nil _, fun _ => rfl⟩
      | cons r rest =>
        rw [hq] at tags behind stopping
        refine ⟨tags.cons_congr r.displacedByPark_tag, fun x hx => ?_, fun hp => ?_⟩
        · rcases List.mem_cons.1 hx with rfl | hx
          · exact r.displacedByPark_position
          · exact behind x hx
        · cases stopping hp
    · exact ⟨tags, others hw, stopping⟩
  obtain ⟨htags, hqueued, hstopping⟩ := htags
  have hstand : Standing (enterGrantedPark s).part (enterGrantedPark s).engine
      (enterGrantedPark s).queue := by
    generalize (enterGrantedPark s).queue = q at hqueued hstopping
    rw [hpart, enterGrantedPark_engine]
    exact .grantedPark rfl rfl rfl ⟨rfl, rfl, rfl⟩ ⟨holdOff, rfl, rfl⟩ startTimeout overrun rfl
      hqueued hstopping
  refine Upright.sound_of_steady ⟨by rw [hpart]; exact out, htags, hstand⟩ ?_ ?_ <;>
    rw [enterGrantedPark_engine] <;> nofun

theorem Ending.parkReady {s : State} (h : Ending s) : ParkReady s := by
  obtain ⟨out, tags, -, unmarked, startTimeout, overrun, -, -, aftermath⟩ := h
  refine ⟨out, tags, unmarked.holdOff, startTimeout, overrun, aftermath.tail_queued, ?_, ?_⟩
  · intro hw
    cases aftermath with
    | alone _ queued => exact queued
    | sweep _ work => exact absurd work hw
  · intro hp
    cases aftermath with
    | alone _ _ stopping => exact stopping hp
    | sweep _ _ _ _ _ _ part => exact absurd hp part

/-- Outside MOVING a held engine can be given the park. -/
theorem parkReady_of_held {s : State} (h : Sound s) (hheld : s.holds.held = true)
    (hs : s.engine.state ≠ .moving) : ParkReady s := by
  obtain ⟨hintent, hgranted⟩ := h.blocks hheld
  have hstand := h.standing
  have hkey : s.engine.holdOff = none ∧ s.engine.startTimeout = none ∧ s.engine.overrun = none ∧
      (s.engine.work ≠ .request → AllQueued s.queue) ∧ (s.part = .stopping → s.queue = []) := by
    generalize s.queue = q at hstand
    cases hstand with
    | idle state work released =>
      exact ⟨released.holdOff, released.startTimeout, released.overrun,
        fun _ => List.forall_mem_nil _, fun _ => rfl⟩
    | waiting state work released part =>
      exact ⟨released.holdOff, released.startTimeout, released.overrun, fun hw => absurd work hw,
        fun hp => absurd hp part⟩
    | intent state => exact absurd state hintent
    | granted state work => exact absurd ⟨state, work⟩ hgranted
    | grantedPark _ _ _ _ unmarked startTimeout overrun _ queued stopping =>
      exact ⟨unmarked.holdOff, startTimeout, overrun, fun _ => queued, stopping⟩
    | moving state => exact absurd state hs
    | movingPark state => exact absurd state hs
    | settling _ work _ unmarked startTimeout overrun _ part =>
      exact ⟨unmarked.holdOff, startTimeout, overrun, fun hw => absurd work hw,
        fun hp => absurd hp part⟩
    | settlingAlone _ _ _ unmarked startTimeout overrun _ part queued =>
      exact ⟨unmarked.holdOff, startTimeout, overrun, fun _ => queued, fun hp => absurd hp part⟩
  obtain ⟨holdOff, startTimeout, overrun, others, stopping⟩ := hkey
  exact ⟨h.out, h.tags, holdOff, startTimeout, overrun, hstand.tail_queued, others, stopping⟩

theorem sameWork_clearParkLatch {s : State} (h : Steady s) (hw : s.engine.state ≠ .waiting) :
    SameWork s (clearParkLatch s) := by
  have k := sameWork_reportClear .park
    (s := s.modHolds fun h => { h with parkLatch := false, parkLatchedAt := none, parkGrantedAt := none })
    ⟨h.intent, h.granted⟩ hw
  exact ⟨k.engine, k.queue⟩

theorem sound_parkAtEnded {s : State} (h : Ending s) : Sound (parkAtEnded s) := by
  unfold parkAtEnded
  split
  · refine sound_afterEnded ?_
    have hoffer := sameWork_offer (parkedRecord (parkWait s s.now) s) h.steady
    have hended := h.congr hoffer (keeps_offer _ s).part
    refine hended.congr (sameWork_clearParkLatch hended.steady ?_) (keeps_clearParkLatch _).part
    rw [hended.state]
    nofun
  · exact sound_enterGrantedPark h.parkReady

/-- The ENDED of the park leaves the engine without work (R170). -/
theorem ending_finishPark {s : State} (h : Upright s) (hs : s.engine.state = .moving)
    (hw : s.engine.work = .park) (ho : s.engine.overrun = none) : Ending (finishPark s) := by
  obtain ⟨g, grant, ⟨holdOff, expired, echo⟩, startTimeout, settle, queued, stopping⟩ :=
    h.standing.of_movingPark hs hw
  have hended : Ending (s.modEngine fun e => { e with work := .none }) :=
    ⟨h.out, h.tags, hs, ⟨holdOff, expired, echo⟩, startTimeout, ho, settle, by simp [grant],
      .alone rfl queued stopping⟩
  have hoffer := sameWork_offer (parkedRecord (parkWait s (s.holds.parkGrantedAt.getD s.now)) s)
    (steady_of_state hs nofun nofun)
  have hfreed : Ending ((offer (parkedRecord (parkWait s (s.holds.parkGrantedAt.getD s.now)) s)
      s).modEngine fun e => { e with work := .none }) := by
    refine hended.congr ⟨?_, hoffer.queue⟩ (keeps_offer _ s).part
    rw [State.modEngine_engine, State.modEngine_engine, hoffer.engine]
  refine hfreed.congr (sameWork_clearParkLatch hfreed.steady ?_) (keeps_clearParkLatch _).part
  rw [hfreed.state]
  nofun

theorem get_reportSet_same {s : State} (src : HoldSource) (hp : s.part ≠ .config)
    (hguard : src ≠ .guard) (hhalt : src ≠ .halt) : (reportSet src s).holds.get src = true := by
  cases hset : s.holds.get src with
  | true => rw [reportSet_of_set hset, hset]
  | false =>
    have hprog := progress_heldEffect (latchHold (s.modHolds fun h => h.put src true))
    unfold reportSet
    simp only [hp, hset, false_or, Bool.false_eq_true, if_false]
    rw [hprog.holds src hguard hhalt]
    exact Holds.get_put_same _ _ _

theorem sound_servePark {s : State} (h : Sound s) : Sound (servePark s) := by
  unfold servePark
  split
  · exact sound_offer _ h
  · set u := reportSet .park
      (s.modHolds fun h => { h with parkLatch := true, parkLatchedAt := some s.now }) with hu
    have hsound : Sound u := sound_reportSet .park (h.congr rfl rfl rfl rfl)
    have hheld : u.holds.held = true :=
      Holds.held_of_get (get_reportSet_same .park h.out nofun nofun)
    dsimp only
    split
    · exact hsound
    all_goals
      next hs => exact sound_enterGrantedPark (parkReady_of_held hsound hheld (by rw [hs]; nofun))

/-! ### ENDED (R154) -/

/-- The effects of an ENDED up to the look whether STOP's work is complete. -/
def endedWork (achieved : Int) (g : Grant) (s : State) : State :=
  let s1 := reachOffset achieved g s
  match s.engine.work with
  | .park => afterEnded (finishPark s1)
  | .request | .none =>
    let s2 := finishStep s1
    if s2.holds.parkLatch then parkAtEnded s2 else afterEnded s2

theorem endMove_eq (achieved : Int) (g : Grant) (s : State) :
    endMove achieved g s = checkStopWork (endedWork achieved g s) := rfl

/-- Of the engine the arrival changes the offset and the overrun timer alone. -/
theorem reachOffset_work (achieved : Int) (g : Grant) {s : State} (hs : s.engine.state = .moving) :
    (reachOffset achieved g s).engine = { s.engine with offset := achieved, overrun := none } ∧
    (reachOffset achieved g s).queue = s.queue ∧ (reachOffset achieved g s).part = s.part := by
  unfold reachOffset
  dsimp only
  split
  · have k := sameWork_raiseFault .badEnded (tagContext g.tag)
      (s := (s.modEngine fun e => { e with offset := achieved, overrun := none }).modBuilder fun b =>
        { b with refs := { b.refs with ended := some s.now } }) (steady_of_state hs nofun nofun)
    exact ⟨k.engine, k.queue, (keeps_raiseFault _ _ _).part⟩
  · exact ⟨rfl, rfl, rfl⟩

theorem upright_reachOffset (achieved : Int) (g : Grant) {s : State} (h : Upright s)
    (hs : s.engine.state = .moving) : Upright (reachOffset achieved g s) := by
  obtain ⟨hengine, hqueue, hpart⟩ := reachOffset_work achieved g hs
  have hstand := h.standing
  refine ⟨by rw [hpart]; exact h.out, by rw [hqueue]; exact h.tags, ?_⟩
  rw [hengine, hqueue, hpart]
  generalize s.queue = q at hstand
  cases hstand with
  | moving state work grant names unmarked startTimeout settle position deferred queued stopping =>
    obtain ⟨holdOff, expired, echo⟩ := unmarked
    exact .moving state work grant names ⟨holdOff, expired, echo⟩ startTimeout settle position
      deferred queued stopping
  | movingPark state work grant names unmarked startTimeout settle queued stopping =>
    obtain ⟨holdOff, expired, echo⟩ := unmarked
    exact .movingPark state work grant names ⟨holdOff, expired, echo⟩ startTimeout settle queued
      stopping
  | _ => simp_all

theorem sound_endedWork (achieved : Int) (g : Grant) {s : State} (h : Upright s)
    (hs : s.engine.state = .moving) : Sound (endedWork achieved g s) := by
  have hup := upright_reachOffset achieved g h hs
  obtain ⟨hengine, -, -⟩ := reachOffset_work achieved g hs
  have hstate : (reachOffset achieved g s).engine.state = .moving := by rw [hengine]; exact hs
  have hoverrun : (reachOffset achieved g s).engine.overrun = none := by rw [hengine]
  have hwork : (reachOffset achieved g s).engine.work = s.engine.work := by rw [hengine]
  unfold endedWork
  cases hw : s.engine.work with
  | park =>
    exact sound_afterEnded (ending_finishPark hup hstate (hwork.trans hw) hoverrun)
  | request =>
    have hended := ending_finishStep hup hstate (hwork.trans hw) hoverrun
    dsimp only
    split
    · exact sound_parkAtEnded hended
    · exact sound_afterEnded hended
  | none =>
    have := h.standing.carries
    rw [hs, hw] at this
    cases this

/-! ### The expiries -/

theorem sound_settled {s : State} (h : Upright s) (hs : s.engine.state = .settling) :
    Sound (endSettling s) := by
  obtain ⟨⟨holdOff, expired, echo⟩, startTimeout, overrun, part, queued⟩ := h.standing.of_settling hs
  exact sound_endSettling ⟨h.out, part, h.tags,
    ⟨⟨holdOff, expired, echo⟩, rfl, startTimeout, overrun, rfl⟩, queued⟩

theorem sound_overrun {s : State} (h : Sound s) (hs : s.engine.state = .moving) :
    Sound (s.modEngine fun e => { e with overrun := none }) := by
  have hstand := h.standing
  refine Upright.sound_of_steady ⟨h.out, h.tags, ?_⟩ (by simp [hs]) (by simp [hs])
  simp only [State.modEngine_queue, State.modEngine_engine, State.modEngine_part]
  generalize s.queue = q at hstand
  cases hstand with
  | moving state work grant names unmarked startTimeout settle position deferred queued stopping =>
    obtain ⟨holdOff, expired, echo⟩ := unmarked
    exact .moving state work grant names ⟨holdOff, expired, echo⟩ startTimeout settle position
      deferred queued stopping
  | movingPark state work grant names unmarked startTimeout settle queued stopping =>
    obtain ⟨holdOff, expired, echo⟩ := unmarked
    exact .movingPark state work grant names ⟨holdOff, expired, echo⟩ startTimeout settle queued
      stopping
  | _ => simp_all

/-- A source reported set leaves a normal grant alone, being set before, or lapses it (R160). -/
theorem reportSet_of_granted (src : HoldSource) {s : State} (hs : s.engine.state = .granted)
    (hw : s.engine.work = .request) :
    SameWork s (reportSet src s) ∨ ((reportSet src s).engine.state = .waiting ∧
      (reportSet src s).queue = modFront (fun r => r.at .waiting) s.queue) := by
  unfold reportSet
  split
  · exact .inl (SameWork.refl s)
  · have hlapse : heldEffect (latchHold (s.modHolds fun h => h.put src true)) =
        lapse (latchHold (s.modHolds fun h => h.put src true)) := by
      unfold heldEffect latchHold
      rw [State.modAttention_engine, State.modHolds_engine, hs, hw]
    rw [hlapse]
    exact .inr ⟨rfl, rfl⟩

/-- A fault leaves a normal grant alone, or, by the HALT source it sets, lapses it (R160, R182). -/
theorem raiseFault_of_granted (k : FaultKind) (ctx : FaultContext) {s : State}
    (hs : s.engine.state = .granted) (hw : s.engine.work = .request) :
    SameWork s (raiseFault k ctx s) ∨ ((raiseFault k ctx s).engine.state = .waiting ∧
      (raiseFault k ctx s).queue = modFront (fun r => r.at .waiting) s.queue) := by
  unfold raiseFault
  split
  · exact .inl (SameWork.refl s)
  · dsimp only
    split
    · rcases reportSet_of_granted .halt (s := s.modRecorder fun f =>
          { status := f.status ||| kindBit k
            first := if f.status = 0 then some ⟨k, s.now, ctx⟩ else f.first }) hs hw with ⟨he, hq⟩ | h
      · exact .inl ⟨he, hq⟩
      · exact .inr h
    · exact .inl ⟨rfl, rfl⟩

/-- NO-START: the grant lapses, with the fault's HALT or by the expiry itself, and the head completes
(R149). -/
theorem sound_noStart {s : State} {r : Request} {rest : List Request} (ctx : FaultContext)
    (h : Sound s) (hs : s.engine.state = .granted) (hw : s.engine.work = .request)
    (hq : s.queue = r :: rest) :
    Sound (takeNext (completeRequest r .noStart
      (if (raiseFault .noStart ctx s).engine.state = .granted then lapse (raiseFault .noStart ctx s)
        else raiseFault .noStart ctx s))) := by
  have hraised := sound_raiseFault .noStart ctx h
  have hfront : ∀ {t : State}, Sound t → t.queue = r.at .waiting :: rest →
      Sound (takeNext (completeRequest r .noStart t)) := fun {t} ht htq =>
    sound_completeHead (x := r.at .waiting) .noStart ht (by rw [htq]; exact List.mem_cons_self) rfl
      rfl
  rcases raiseFault_of_granted .noStart ctx hs hw with ⟨hengine, hqueue⟩ | ⟨hstate, hqueue⟩
  · have hs' : (raiseFault .noStart ctx s).engine.state = .granted := by rw [hengine]; exact hs
    have hw' : (raiseFault .noStart ctx s).engine.work = .request := by rw [hengine]; exact hw
    rw [if_pos hs']
    refine hfront (sound_lapse hraised.toUpright hs' hw') ?_
    simp [lapse, announce, headAt, hqueue, hq, modFront]
  · rw [if_neg (by rw [hstate]; nofun)]
    refine hfront hraised ?_
    rw [hqueue, hq]
    rfl

/-! ### STOP (R156) -/

theorem keptAtStop_of_none_moving {q : List Request} (h : ∀ x ∈ q, x.position ≠ .moving) :
    keptAtStop q = [] := by
  unfold keptAtStop
  rw [List.filter_eq_nil_iff.2 fun x hx => by simpa using h x hx]
  rfl

theorem keptAtStop_of_queued {q : List Request} (h : AllQueued q) : keptAtStop q = [] :=
  keptAtStop_of_none_moving fun x hx => by rw [h x hx]; nofun

theorem keptAtStop_cons {r : Request} {rest : List Request} (hr : r.position ≠ .moving)
    (h : AllQueued rest) : keptAtStop (r :: rest) = [] := by
  refine keptAtStop_of_none_moving fun x hx => ?_
  rcases List.mem_cons.1 hx with rfl | hx
  · exact hr
  · rw [h x hx]; nofun

theorem keptAtStop_moving {r : Request} {rest : List Request} (hr : r.position = .moving)
    (h : AllQueued rest) : keptAtStop (r :: rest) =
      [Request.modSweep (fun w => { w with cancelPending := true }) r] := by
  have hrest := keptAtStop_of_queued h
  unfold keptAtStop at hrest ⊢
  rw [List.filter_cons_of_pos (by simpa using hr), List.map_cons, hrest]

theorem endsAtStop_cancelPending (r : Request) :
    (Request.modSweep (fun w => { w with cancelPending := true }) r).endsAtStop = true := by
  unfold Request.modSweep Request.endsAtStop
  cases hjob : r.job <;> simp [hjob]

/-- An engine in IDLE with nothing queued. -/
theorem sound_of_idle {s : State} (out : s.part ≠ .config) (hq : s.queue = [])
    (hs : s.engine.state = .idle) (hw : s.engine.work = .none) (hr : Released s.engine) :
    Sound s := by
  refine Upright.sound_of_steady ⟨out, ?_, ?_⟩ (by rw [hs]; nofun) (by rw [hs]; nofun)
  · rw [hq]
    exact ⟨List.Pairwise.nil, List.forall_mem_nil _⟩
  · rw [hq]
    exact .idle hs hw hr

theorem sound_stopEngine {s : State} (h : Sound s) :
    Sound (stopEngine (s.withPart .stopping)) := by
  have hstand := h.standing
  have htags := h.tags
  generalize hq : s.queue = q at hstand htags
  cases hstand with
  | idle state work released =>
    obtain ⟨⟨holdOff, expired, echo⟩, grant, startTimeout, overrun, settle⟩ := released
    refine sound_of_idle ?_ ?_ ?_ ?_ ⟨⟨?_, ?_, ?_⟩, ?_, ?_, ?_, ?_⟩ <;>
      simp [stopEngine, State.withPart, State.modQueue, State.modEngine, keptAtStop, *]
  | waiting state work released part position queued =>
    obtain ⟨⟨holdOff, expired, echo⟩, grant, startTimeout, overrun, settle⟩ := released
    have hkept := keptAtStop_cons (by rw [position]; nofun) queued
    refine sound_of_idle ?_ ?_ ?_ ?_ ⟨⟨?_, ?_, ?_⟩, ?_, ?_, ?_, ?_⟩ <;>
      simp [stopEngine, State.withPart, State.modQueue, State.modEngine, *]
  | intent state work grant startTimeout overrun settle part position deferred queued =>
    have hkept := keptAtStop_cons (by rw [position]; nofun) queued
    refine sound_of_idle ?_ ?_ ?_ ?_ ⟨⟨?_, ?_, ?_⟩, ?_, ?_, ?_, ?_⟩ <;>
      simp [stopEngine, withdraw, announce, headAt, State.withPart, State.modQueue, State.modEngine,
        State.modLink, *]
  | granted state work grant names unmarked startTimeout overrun settle part position deferred
      queued =>
    obtain ⟨holdOff, expired, echo⟩ := unmarked
    have hkept := keptAtStop_cons (by rw [position]; nofun) queued
    refine sound_of_idle ?_ ?_ ?_ ?_ ⟨⟨?_, ?_, ?_⟩, ?_, ?_, ?_, ?_⟩ <;>
      simp [stopEngine, lapse, announce, headAt, State.withPart, State.modQueue, State.modEngine,
        State.modLink, *]
  | grantedPark state work grant names unmarked startTimeout overrun settle queued stopping =>
    obtain ⟨holdOff, expired, echo⟩ := unmarked
    have hkept := keptAtStop_of_queued queued
    have hstop : stopEngine (s.withPart .stopping) =
        { s with part := .stopping, queue := [], engine := { s.engine with yieldPause := none } } := by
      simp [stopEngine, State.withPart, State.modQueue, State.modEngine, state, work, hq, hkept]
    rw [hstop]
    refine Upright.sound_of_steady ⟨nofun, ⟨List.Pairwise.nil, List.forall_mem_nil _⟩, ?_⟩
      (by simp [state]) (by simp [work])
    exact .grantedPark state work grant names ⟨holdOff, expired, echo⟩ startTimeout overrun settle
      (List.forall_mem_nil _) fun _ => rfl
  | @moving r rest g state work grant names unmarked startTimeout settle position deferred queued =>
    obtain ⟨holdOff, expired, echo⟩ := unmarked
    have hplace := inPlace_modSweep (r := r) (f := fun w => { w with cancelPending := true })
      (fun _ _ => rfl) fun _ _ _ => rfl
    have hstop : stopEngine (s.withPart .stopping) =
        { s with
          part := .stopping
          queue := [Request.modSweep (fun w => { w with cancelPending := true }) r]
          engine := { s.engine with yieldPause := none } } := by
      simp [stopEngine, State.withPart, State.modQueue, State.modEngine, state, hq,
        keptAtStop_moving position queued]
    rw [hstop]
    refine Upright.sound_of_steady ⟨nofun, ?_, ?_⟩ (by simp [state]) (by simp [state])
    · refine htags.of_sublist ?_
      rw [List.map_cons, List.map_cons, hplace.tag]
      exact List.Sublist.cons_cons _ (List.nil_sublist _)
    · exact .moving state work grant ⟨names.work, names.tag.trans hplace.tag.symm⟩
        ⟨holdOff, expired, echo⟩ startTimeout settle (hplace.position.trans position)
        (hplace.deferred (by rw [position]; nofun) (by rw [position]; nofun) deferred)
        (List.forall_mem_nil _) fun _ => ⟨rfl, endsAtStop_cancelPending r⟩
  | movingPark state work grant names unmarked startTimeout settle queued stopping =>
    obtain ⟨holdOff, expired, echo⟩ := unmarked
    have hstop : stopEngine (s.withPart .stopping) =
        { s with part := .stopping, queue := [], engine := { s.engine with yieldPause := none } } := by
      simp [stopEngine, State.withPart, State.modQueue, State.modEngine, state, hq,
        keptAtStop_of_queued queued]
    rw [hstop]
    refine Upright.sound_of_steady ⟨nofun, ⟨List.Pairwise.nil, List.forall_mem_nil _⟩, ?_⟩
      (by simp [state]) (by simp [work])
    exact .movingPark state work grant names ⟨holdOff, expired, echo⟩ startTimeout settle
      (List.forall_mem_nil _) fun _ => rfl
  | settling state work grant unmarked startTimeout overrun settle part position sweep deferred
      queued =>
    obtain ⟨holdOff, expired, echo⟩ := unmarked
    have hkept := keptAtStop_cons (by rw [position]; nofun) queued
    refine sound_of_idle ?_ ?_ ?_ ?_ ⟨⟨?_, ?_, ?_⟩, ?_, ?_, ?_, ?_⟩ <;>
      simp [stopEngine, announce, State.withPart, State.modQueue, State.modEngine, State.modLink, *]
  | settlingAlone state work grant unmarked startTimeout overrun settle part queued =>
    obtain ⟨holdOff, expired, echo⟩ := unmarked
    have hkept := keptAtStop_of_queued queued
    refine sound_of_idle ?_ ?_ ?_ ?_ ⟨⟨?_, ?_, ?_⟩, ?_, ?_, ?_, ?_⟩ <;>
      simp [stopEngine, announce, State.withPart, State.modQueue, State.modEngine, State.modLink, *]

end Sys2Proof.Machine
end

section
/-! SUPPORT. The hold sources follow their owners, and the lawful states: outside CONFIG a sound engine with
its sources, in CONFIG the part at rest (R12, R22, R159, R163, R166, R193). -/

namespace Sys2Proof.Machine

/-! ### Sources and owners -/

/-- A source is as its owner has it; SOFT, GUARD and HALT have none (R159). -/
def OwnFollows (src : HoldSource) (s : State) : Prop :=
  match src with
  | .storm => s.holds.storm = s.holds.stormLatch
  | .park => s.holds.park = s.holds.parkLatch
  | .wind => s.holds.wind = true ↔ s.wind.condition ≠ .fresh
  | .link => s.holds.link = true ↔ s.link.trail.current ≠ .ready
  | .soft | .guard | .halt => True

/-- Every source follows its owner, one left out of the claim, and the link is not OFF. -/
structure Owned (x : Option HoldSource) (s : State) : Prop where
  follows : ∀ src, some src ≠ x → OwnFollows src s
  lit : s.link.trail.current ≠ .off

/-- The sources that have owners, one left out, and the owners are as before. -/
structure SourcesKept (x : Option HoldSource) (s t : State) : Prop where
  get : ∀ src, src ≠ .guard → src ≠ .halt → some src ≠ x → t.holds.get src = s.holds.get src
  stormLatch : t.holds.stormLatch = s.holds.stormLatch
  parkLatch : t.holds.parkLatch = s.holds.parkLatch
  wind : t.wind = s.wind
  trail : t.link.trail = s.link.trail

theorem SourcesKept.refl (x : Option HoldSource) (s : State) : SourcesKept x s s :=
  ⟨fun _ _ _ _ => rfl, rfl, rfl, rfl, rfl⟩

theorem SourcesKept.trans {x : Option HoldSource} {s t u : State} (h : SourcesKept x s t)
    (k : SourcesKept x t u) : SourcesKept x s u :=
  ⟨fun src h1 h2 h3 => (k.get src h1 h2 h3).trans (h.get src h1 h2 h3),
    k.stormLatch.trans h.stormLatch, k.parkLatch.trans h.parkLatch, k.wind.trans h.wind,
    k.trail.trans h.trail⟩

theorem SourcesKept.leave {s t : State} (x : Option HoldSource) (h : SourcesKept none s t) :
    SourcesKept x s t :=
  ⟨fun src h1 h2 _ => h.get src h1 h2 nofun, h.stormLatch, h.parkLatch, h.wind, h.trail⟩

theorem SourcesKept.of_holds {s t : State} (hh : t.holds = s.holds) (hw : t.wind = s.wind)
    (ht : t.link.trail = s.link.trail) : SourcesKept none s t :=
  ⟨fun src _ _ _ => by rw [hh], by rw [hh], by rw [hh], hw, ht⟩

/-- What only evaluates, completes and offers keeps the sources. -/
theorem SourcesKept.of_progress {s t : State} (k : Keeps s t) (p : Progress s t) :
    SourcesKept none s t := by
  obtain ⟨hstorm, hpark⟩ := Prod.ext_iff.1 p.latches
  exact ⟨fun src h1 h2 _ => p.holds src h1 h2, hstorm, hpark, k.wind, k.trail⟩

theorem Owned.kept {x : Option HoldSource} {s t : State} (h : Owned x s)
    (k : SourcesKept x s t) : Owned x t := by
  refine ⟨fun src hx => ?_, by rw [k.trail]; exact h.lit⟩
  have hsrc := h.follows src hx
  cases src with
  | storm => exact (k.get .storm nofun nofun hx).trans (hsrc.trans k.stormLatch.symm)
  | park => exact (k.get .park nofun nofun hx).trans (hsrc.trans k.parkLatch.symm)
  | wind =>
    have hget : t.holds.wind = s.holds.wind := k.get .wind nofun nofun hx
    unfold OwnFollows
    rw [hget, k.wind]
    exact hsrc
  | link =>
    have hget : t.holds.link = s.holds.link := k.get .link nofun nofun hx
    unfold OwnFollows
    rw [hget, k.trail]
    exact hsrc
  | soft => trivial
  | guard => trivial
  | halt => trivial

theorem Owned.leave {s : State} (x : Option HoldSource) (h : Owned none s) : Owned x s :=
  ⟨fun src _ => h.follows src nofun, h.lit⟩

/-- The source left out is as its owner has it, too. -/
theorem Owned.restore {src : HoldSource} {s : State} (h : Owned (some src) s)
    (hs : OwnFollows src s) : Owned none s := by
  refine ⟨fun o _ => ?_, h.lit⟩
  by_cases ho : o = src
  · rw [ho]; exact hs
  · exact h.follows o fun hc => ho (Option.some.inj hc)

theorem sourcesKept_put (src : HoldSource) (b : Bool) (s : State) :
    SourcesKept (some src) s (latchHold (s.modHolds fun h => h.put src b)) :=
  ⟨fun _ _ _ ho => Holds.get_put_of_ne _ _ fun hc => ho (congrArg some hc),
    Holds.put_stormLatch _ _ _, Holds.put_parkLatch _ _ _, rfl, rfl⟩

theorem sourcesKept_reportSet (src : HoldSource) (s : State) :
    SourcesKept (some src) s (reportSet src s) := by
  unfold reportSet
  split
  · exact SourcesKept.refl _ s
  · exact (sourcesKept_put src true s).trans
      ((SourcesKept.of_progress (keeps_heldEffect _) (progress_heldEffect _)).leave _)

theorem sourcesKept_reportClear (src : HoldSource) (s : State) :
    SourcesKept (some src) s (reportClear src s) := by
  unfold reportClear
  split
  · exact SourcesKept.refl _ s
  · refine (sourcesKept_put src false s).trans ?_
    dsimp only
    split
    · exact (SourcesKept.of_progress (keeps_heldEffect _) (progress_heldEffect _)).leave _
    · exact (SourcesKept.of_progress (keeps_evalPoint _ _) (progress_evalPoint _ _)).leave _

/-! ### The lawful states -/

/-- A sound engine, its sources following their owners. -/
structure Lawful (s : State) : Prop extends Sound s where
  owned : Owned none s

/-- The part at rest in CONFIG (R193). -/
structure Resting (s : State) : Prop where
  part : s.part = .config
  rest : AtRestInConfig s

theorem lawful_of_kept {s t : State} (h : Lawful s) (ht : Sound t) (k : SourcesKept none s t) :
    Lawful t := ⟨ht, h.owned.kept k⟩

theorem Lawful.congr {s t : State} (h : Lawful s) (hp : t.part = s.part)
    (he : t.engine = s.engine) (hq : t.queue = s.queue) (hh : t.holds = s.holds)
    (hw : t.wind = s.wind) (ht : t.link.trail = s.link.trail) : Lawful t :=
  lawful_of_kept h (h.toSound.congr hp he hq (by rw [hh])) (.of_holds hh hw ht)

theorem engineLawful_of_lawful {s : State} (h : Lawful s) : EngineLawful s := by
  refine ⟨fun hc => absurd hc h.out, h.tags, ⟨h.owned.follows .storm nofun,
    h.owned.follows .park nofun, fun _ => ⟨h.owned.follows .wind nofun,
      h.owned.follows .link nofun, h.owned.lit⟩⟩, h.blocks, coherent_of_standing h.standing⟩

theorem engineLawful_of_resting {s : State} (h : Resting s) : EngineLawful s := by
  obtain ⟨part, rest⟩ := h
  obtain ⟨-, -, -, -, -, -, -, -, -, state, work, grant, holdOff, -, startTimeout, overrun, settle,
    echo, expired, holds, -, -, queue, -, -⟩ := id rest part
  refine ⟨rest, ?_, ⟨by rw [holds]; rfl, by rw [holds]; rfl, fun hc => absurd part hc⟩, ?_, ?_⟩
  · unfold TagsUnique
    rw [queue]
    exact ⟨List.Pairwise.nil, List.forall_mem_nil _⟩
  · intro hheld
    rw [holds] at hheld
    cases hheld
  · refine coherent_of_standing ?_
    rw [queue]
    exact .idle state work ⟨⟨holdOff, expired, echo⟩, grant, startTimeout, overrun, settle⟩

theorem lawful_or_resting {s : State} (h : EngineLawful s) : Lawful s ∨ Resting s := by
  obtain ⟨rest, tags, ⟨storm, park, owners⟩, blocks, coherent⟩ := h
  by_cases hp : s.part = .config
  · exact .inr ⟨hp, rest⟩
  · obtain ⟨wind, link, lit⟩ := owners hp
    refine .inl ⟨⟨⟨hp, tags, standing_of_coherent coherent⟩, blocks⟩, fun src _ => ?_, lit⟩
    cases src with
    | storm => exact storm
    | park => exact park
    | wind => exact wind
    | link => exact link
    | soft => trivial
    | guard => trivial
    | halt => trivial

theorem Trail.current_push (n : LinkState) (t : Trail) : (t.push n).current = n := by
  unfold Trail.push
  split
  · assumption
  · rfl

/-- However the part enters CONFIG, it is at rest there (R54, R193). -/
theorem resting_enterConfig (s : State) : Resting (enterConfig s) := by
  refine ⟨rfl, fun _ => ⟨Trail.current_push _ _, rfl, rfl, rfl, rfl, rfl, rfl, rfl, rfl, rfl, rfl, rfl,
    rfl, rfl, rfl, rfl, rfl, rfl, rfl, rfl, rfl, rfl, rfl, rfl, fun w hw => ?_⟩⟩
  have hw : s.intake.map (fun w => { w with void := true }) = some w := hw
  obtain ⟨v, -, rfl⟩ := Option.map_eq_some_iff.1 hw
  rfl

/-! ### Operations that keep a lawful state -/

theorem lawful_evalPoint {s : State} (atIntake : Bool) (h : Lawful s) :
    Lawful (evalPoint atIntake s) :=
  lawful_of_kept h (sound_evalPoint _ h.toSound)
    (.of_progress (keeps_evalPoint _ _) (progress_evalPoint _ _))

theorem lawful_raiseFault {s : State} (k : FaultKind) (ctx : FaultContext) (h : Lawful s) :
    Lawful (raiseFault k ctx s) :=
  lawful_of_kept h (sound_raiseFault _ _ h.toSound)
    (.of_progress (keeps_raiseFault _ _ _) (progress_raiseFault _ _ _))

/-- A source set whose owner wants it set. -/
theorem lawful_reportSet {s : State} {src : HoldSource} (h : Sound s) (ho : Owned (some src) s)
    (hs : OwnFollows src (reportSet src s)) : Lawful (reportSet src s) :=
  ⟨sound_reportSet src h, (ho.kept (sourcesKept_reportSet src s)).restore hs⟩

/-- A source clear whose owner wants it clear. -/
theorem lawful_reportClear {s : State} {src : HoldSource} (h : Sound s) (ho : Owned (some src) s)
    (hs : OwnFollows src (reportClear src s)) : Lawful (reportClear src s) :=
  ⟨sound_reportClear src h, (ho.kept (sourcesKept_reportClear src s)).restore hs⟩

theorem lawful_reportGuard {s : State} (h : Lawful s) : Lawful (reportGuard s) := by
  unfold reportGuard
  split_ifs
  · exact lawful_reportSet h.toSound (h.owned.leave _) trivial
  · exact lawful_reportClear h.toSound (h.owned.leave _) trivial
  · exact h

/-! ### The link's states -/

theorem Link.beginAttempt_trail (lane : Bool) (l : Link) : (l.beginAttempt lane).trail = l.trail := by
  unfold Link.beginAttempt Link.startGap
  split <;> rfl

/-- The sources but LINK follow their owners through a change of the link. -/
theorem Owned.modLink {s : State} (h : Owned none s) (f : Link → Link)
    (hlit : (f s.link).trail.current ≠ .off) : Owned (some .link) (s.modLink f) := by
  refine ⟨fun src hsrc => ?_, hlit⟩
  have := h.follows src nofun
  cases src with
  | link => exact absurd rfl hsrc
  | _ => exact this

theorem lawful_enterReady {s : State} (h : Lawful s) : Lawful (enterReady s) := by
  unfold enterReady
  set u := s.modLink fun l =>
    { l with
      trail := l.trail.push .ready
      listenTimer := none
      checkTimer := none
      heardOther := false
      collisions := 0 }.beginAttempt s.pins.laneActive with hu
  have htrail : u.link.trail.current = .ready := by
    rw [hu, State.modLink_link, Link.beginAttempt_trail, Trail.current_push]
  have howned : Owned (some .link) u := 
    h.owned.modLink _ (by rw [Link.beginAttempt_trail, Trail.current_push]; nofun)
  refine lawful_reportClear (h.toSound.congr rfl rfl rfl rfl) howned ?_
  have hclear : (reportClear .link u).holds.link = false :=
    get_reportClear_same (src := .link) h.out nofun nofun
  unfold OwnFollows
  rw [hclear, (keeps_reportClear _ _).trail, htrail]
  simp

/-- The LINK source is set with the link in a state other than READY and OFF. -/
theorem lawful_reportSet_link {s : State} (h : Sound s) (ho : Owned (some .link) s)
    (ht : s.link.trail.current ≠ .ready) : Lawful (reportSet .link s) := by
  refine lawful_reportSet h ho ?_
  have hset : (reportSet .link s).holds.link = true :=
    get_reportSet_same .link h.out nofun nofun
  unfold OwnFollows
  rw [hset, (keeps_reportSet _ _).trail]
  exact ⟨fun _ => ht, fun _ => rfl⟩

theorem lawful_enterCheck {s : State} (h : Lawful s) : Lawful (enterCheck s) := by
  unfold enterCheck
  refine lawful_raiseFault _ _ (lawful_reportSet_link (h.toSound.congr rfl rfl rfl rfl)
    (h.owned.modLink _ ?_) ?_)
  all_goals
    simp only [State.modLink_link, Trail.current_push]
    nofun

theorem lawful_enterDown {s : State} (h : Lawful s) : Lawful (enterDown s) := by
  unfold enterDown
  refine lawful_reportSet_link (h.toSound.congr rfl rfl rfl rfl) (h.owned.modLink _ ?_) ?_
  all_goals
    simp only [State.modLink_link, Trail.current_push]
    nofun

/-! ### The final announcement -/

/-- A state that the claim calls lawful, in its two shapes. -/
def Kept (s : State) : Prop := Lawful s ∨ Resting s

theorem kept_iff (s : State) : Kept s ↔ EngineLawful s :=
  ⟨fun h => h.elim engineLawful_of_lawful engineLawful_of_resting, lawful_or_resting⟩

theorem lawful_modLink {s : State} (h : Lawful s) (f : Link → Link)
    (hf : (f s.link).trail = s.link.trail) : Lawful (s.modLink f) :=
  h.congr rfl rfl rfl rfl rfl hf

theorem kept_requestFinal {s : State} (h : Lawful s) : Kept (requestFinal s) := by
  have hwritten : Lawful (s.modLink (Link.writeFinal (content s))) := lawful_modLink h _ rfl
  unfold requestFinal
  dsimp only
  split
  · left
    split
    · exact lawful_modLink hwritten _ rfl
    · exact lawful_modLink hwritten _ rfl
    all_goals exact lawful_modLink hwritten _ (Link.beginAttempt_trail _ _)
  · exact .inr (resting_enterConfig _)

theorem kept_checkStopWork {s : State} (h : Lawful s) : Kept (checkStopWork s) := by
  unfold checkStopWork
  split
  · exact kept_requestFinal h
  · exact .inl h

theorem kept_endFinal {s : State} (h : Lawful s) : Kept (endFinal s) := by
  unfold endFinal
  split
  · exact .inl (lawful_modLink h _ (Link.beginAttempt_trail _ _))
  · exact .inr (resting_enterConfig _)
  · exact .inl h

/-! ### The echo -/

theorem upright_echo {s : State} (h : Upright s) (hs : s.engine.state = .intent) (b : Bool) :
    Upright (s.modEngine fun e => { e with echo := b }) := by
  obtain ⟨r, rest, hq, work, grant, startTimeout, overrun, settle, part, position, deferred,
    queued⟩ := h.standing.of_intent hs
  refine ⟨h.out, h.tags, ?_⟩
  rw [State.modEngine_queue, hq]
  exact .intent hs work grant startTimeout overrun settle part position deferred queued

theorem lawful_confirmation {s : State} (h : Lawful s) : Lawful (confirmation s) := by
  unfold confirmation
  split
  · next hs =>
    have hsound : Sound (s.modEngine fun e => { e with echo := true }) :=
      ⟨upright_echo h.toUpright hs.1 true, h.blocks⟩
    exact lawful_evalPoint _ (lawful_of_kept h hsound (.of_holds rfl rfl rfl))
  · exact h

theorem kept_goodEcho {s : State} (h : Lawful s) : Kept (goodEcho s) := by
  have h0 : Lawful (s.modLink fun l => { l with collisions := 0 }) := lawful_modLink h _ rfl
  unfold goodEcho
  dsimp only
  split
  · have h1 := lawful_modLink h0
      (fun l => { l.abandon with slot := { l.slot with confirmed := true } }) rfl
    have h2 : Lawful (if s.link.slot.confirmed then
        ((s.modLink fun l => { l with collisions := 0 }).modLink fun l =>
          { l.abandon with slot := { l.slot with confirmed := true } })
        else confirmation ((s.modLink fun l => { l with collisions := 0 }).modLink fun l =>
          { l.abandon with slot := { l.slot with confirmed := true } })) := by
      split
      · exact h1
      · exact lawful_confirmation h1
    split
    · exact .inl h2
    · exact kept_endFinal h2
  · have h1 := lawful_modLink h0 (fun l => { l with slot := { l.slot with pending := true } }) rfl
    split
    · exact .inl (lawful_modLink h1 _ (Link.beginAttempt_trail _ _))
    · exact kept_endFinal h1

theorem kept_collision {s : State} (h : Lawful s) : Kept (collision s) := by
  have h1 : Lawful (s.modLink fun l => { l with collisions := min 8 (l.collisions + 1) }) :=
    lawful_modLink h _ rfl
  unfold collision
  dsimp only
  split
  · split
    · exact .inl (lawful_enterCheck h1)
    · exact .inl (lawful_modLink h1 _ rfl)
  · exact kept_endFinal h1

end Sys2Proof.Machine
end

section
/-! SUPPORT. Every command leaves a lawful state lawful (R193, R194 and the chapters of each command). -/

namespace Sys2Proof.Machine

/-! ### Results -/

/-- Every state that a result goes on with has a property. -/
def EndsIn (p : State → Prop) (o : Result) : Prop := ∀ t, o = .next t → p t

theorem EndsIn.next {p : State → Prop} {t : State} (h : p t) : EndsIn p (.next t) :=
  fun u hu => by cases hu; exact h

theorem EndsIn.portCommand {p : State → Prop} {s t : State} (hs : p s) (ht : p t) :
    EndsIn p (portCommand s t) := by
  unfold Machine.portCommand
  split
  · exact .next ht
  all_goals exact .next hs

/-! ### The part at rest -/

/-- Of what rest speaks of nothing changes, but that a frame in work may go. -/
structure Undisturbed (s t : State) : Prop where
  part : t.part = s.part
  link : t.link = s.link
  engine : t.engine = s.engine
  holds : t.holds = s.holds
  neighbours : t.neighbours = s.neighbours
  windows : t.windows = s.windows
  queue : t.queue = s.queue
  wind : t.wind = s.wind
  intake : t.intake = s.intake ∨ t.intake = none

theorem Resting.undisturbed {s t : State} (h : Resting s) (k : Undisturbed s t) : Resting t := by
  obtain ⟨part, rest⟩ := h
  obtain ⟨kpart, link, engine, holds, neighbours, windows, queue, wind, intake⟩ := k
  refine ⟨kpart.trans part, fun _ => ?_⟩
  have hrest := rest part
  rw [link, engine, holds, neighbours, windows, queue, wind]
  obtain ⟨h1, h2, h3, h4, h5, h6, h7, h8, h9, h10, h11, h12, h13, h14, h15, h16, h17, h18, h19, h20,
    h21, h22, h23, h24, void⟩ := hrest
  refine ⟨h1, h2, h3, h4, h5, h6, h7, h8, h9, h10, h11, h12, h13, h14, h15, h16, h17, h18, h19, h20,
    h21, h22, h23, h24, fun w hw => ?_⟩
  rcases intake with hi | hi
  · exact void w (hi.symm.trans hw)
  · cases hi.symm.trans hw

theorem Kept.reply {s : State} (h : Kept s) (a : Answer) (bytes : List Byte) :
    Kept (reply a bytes s) :=
  h.imp (fun h => h.congr rfl rfl rfl rfl rfl rfl) fun h =>
    h.undisturbed ⟨rfl, rfl, rfl, rfl, rfl, rfl, rfl, rfl, .inl rfl⟩

/-- A port command whose effect, answered OK or refused, is lawful. -/
theorem endsIn_kept_reply {s t : State} (hs : Kept s) (ht : Kept t) (a : Answer)
    (bytes : List Byte) : EndsIn Kept (portCommand s (reply a bytes t)) :=
  .portCommand hs (ht.reply a bytes)

theorem resting_reset (selLow : Bool) (s : State) :
    EndsIn Kept (execHardwareReset selLow s) := by
  refine .next (.inr ⟨rfl, fun _ => ?_⟩)
  exact ⟨rfl, rfl, rfl, rfl, rfl, rfl, rfl, rfl, rfl, rfl, rfl, rfl, rfl, rfl, rfl, rfl, rfl, rfl, rfl,
    rfl, rfl, rfl, rfl, rfl, nofun⟩

/-! ### Operations and the sources -/

theorem sourcesKept_completeRequest (r : Request) (o : OutcomeCode) (s : State) :
    SourcesKept none s (completeRequest r o s) :=
  .of_progress (keeps_completeRequest _ _ _) (progress_completeRequest _ _ _)

theorem sourcesKept_takeNext (s : State) : SourcesKept none s (takeNext s) :=
  .of_progress (keeps_takeNext _) (progress_takeNext _)

theorem sourcesKept_evalPoint (atIntake : Bool) (s : State) :
    SourcesKept none s (evalPoint atIntake s) :=
  .of_progress (keeps_evalPoint _ _) (progress_evalPoint _ _)

theorem sourcesKept_withdraw (s : State) : SourcesKept none s (withdraw s) :=
  .of_progress (keeps_withdraw _) (progress_withdraw _)

theorem sourcesKept_lapse (s : State) : SourcesKept none s (lapse s) :=
  .of_progress (keeps_lapse _) (progress_lapse _)

theorem sourcesKept_announce (s : State) : SourcesKept none s (announce s) :=
  .of_progress (keeps_announce _) (progress_announce _)

theorem sourcesKept_offer (r : OutcomeRecord) (s : State) : SourcesKept none s (offer r s) :=
  .of_progress (keeps_offer _ _) (progress_offer _ _)

theorem sourcesKept_takeHead (s : State) : SourcesKept none s (takeHead s) :=
  .of_progress (keeps_takeHead _) (progress_takeHead _)

theorem sourcesKept_modQueue (s : State) (f : List Request → List Request) :
    SourcesKept none s (s.modQueue f) := .of_holds rfl rfl rfl

theorem sourcesKept_modEngine (s : State) (f : Engine → Engine) :
    SourcesKept none s (s.modEngine f) := .of_holds rfl rfl rfl

theorem sourcesKept_completeHead (r : Request) (o : OutcomeCode) (s : State) :
    SourcesKept none s (takeNext (completeRequest r o s)) :=
  (sourcesKept_completeRequest r o s).trans (sourcesKept_takeNext _)

theorem sourcesKept_complete_settling (r : Request) (o : OutcomeCode) (s : State) :
    SourcesKept none s (completeRequest r o (s.modEngine fun e => { e with work := .none })) :=
  (sourcesKept_modEngine s _).trans (sourcesKept_completeRequest _ _ _)

theorem sourcesKept_cancelRequest (r : Request) (s : State) :
    SourcesKept none s (cancelRequest r s) := by
  unfold cancelRequest
  split
  · exact sourcesKept_completeRequest _ _ s
  · exact sourcesKept_completeHead _ _ s
  · exact (sourcesKept_withdraw s).trans (sourcesKept_completeHead _ _ _)
  · exact (sourcesKept_lapse s).trans (sourcesKept_completeHead _ _ _)
  · exact sourcesKept_modQueue s _
  · exact sourcesKept_complete_settling _ _ s

/-- A completion that the guard level defers (R123, R131). -/
theorem sourcesKept_deferOrComplete (r : Request) (o : OutcomeCode)
    (f : List Request → List Request) (s : State) :
    SourcesKept none s (if guardLevel s then s.modQueue f
      else if r.position = .waiting then takeNext (completeRequest r o s)
      else completeRequest r o s) := by
  split_ifs
  · exact sourcesKept_modQueue s f
  · exact sourcesKept_completeHead r o s
  · exact sourcesKept_completeRequest r o s

theorem sourcesKept_expireRequest (r : Request) (s : State) :
    SourcesKept none s (expireRequest r s) := by
  unfold expireRequest
  split
  · exact (sourcesKept_withdraw s).trans (sourcesKept_completeHead _ _ _)
  · exact sourcesKept_deferOrComplete r _ _ s
  · exact sourcesKept_deferOrComplete r _ _ s
  all_goals exact SourcesKept.refl _ s

theorem sourcesKept_underrunEnd (r : Request) (s : State) :
    SourcesKept none s (underrunEnd r s) := by
  unfold underrunEnd
  split
  · exact sourcesKept_complete_settling _ _ s
  · exact sourcesKept_deferOrComplete r _ _ s
  · exact sourcesKept_deferOrComplete r _ _ s
  all_goals exact SourcesKept.refl _ s

theorem sourcesKept_stepBecomesEligible (r : Request) (s : State) :
    SourcesKept none s (stepBecomesEligible r s) := by
  unfold stepBecomesEligible
  split
  · exact sourcesKept_evalPoint _ s
  · exact SourcesKept.refl _ s

theorem sourcesKept_judgePace (r : Request) (w : SweepJob) (s : State) :
    SourcesKept none s (judgePace r w s) := by
  have hlatch : ∀ t, SourcesKept none t (latchUnderrun t) := fun _ => .of_holds rfl rfl rfl
  unfold judgePace
  dsimp only
  split
  · exact sourcesKept_modQueue s _
  · split
    · exact (sourcesKept_modQueue s _).trans (sourcesKept_stepBecomesEligible _ _)
    · split
      · exact ((sourcesKept_modQueue s _).trans (hlatch _)).trans
          (sourcesKept_stepBecomesEligible _ _)
      · exact (sourcesKept_modQueue s _).trans (hlatch _)
      · exact (sourcesKept_modQueue s _).trans (sourcesKept_underrunEnd _ _)

theorem sourcesKept_completeDeferred (n : Nat) (s : State) :
    SourcesKept none s (completeDeferred n s) := by
  induction n generalizing s with
  | zero => exact SourcesKept.refl _ s
  | succ n ih =>
    unfold completeDeferred
    split
    · exact SourcesKept.refl _ s
    · split
      · exact SourcesKept.refl _ s
      · refine SourcesKept.trans ?_ (ih _)
        split
        · exact sourcesKept_completeHead _ _ s
        · exact sourcesKept_completeRequest _ _ s

theorem sourcesKept_stopEngine (s : State) : SourcesKept none s (stopEngine s) := by
  have hgiven : SourcesKept none s
      (match s.engine.state, s.engine.work with
        | .intent, _ => withdraw s
        | .granted, .request => lapse s
        | _, _ => s) := by
    split
    · exact sourcesKept_withdraw s
    · exact sourcesKept_lapse s
    · exact SourcesKept.refl _ s
  have hs2 := (hgiven.trans (sourcesKept_modQueue _ fun _ => keptAtStop s.queue)).trans
    (sourcesKept_modEngine _ fun e => { e with yieldPause := none })
  unfold stopEngine
  dsimp only
  split
  · exact hs2
  · exact hs2
  · exact (hs2.trans (sourcesKept_modEngine _ _)).trans (sourcesKept_announce _)
  all_goals exact hs2.trans (sourcesKept_modEngine _ _)

/-! ### The park and the sources -/

/-- The PARK source and its latch go together (R166). -/
theorem owned_clearParkLatch {s : State} (h : Owned none s) (hp : s.part ≠ .config) :
    Owned none (clearParkLatch s) := by
  unfold clearParkLatch
  set u := s.modHolds fun h =>
    { h with parkLatch := false, parkLatchedAt := none, parkGrantedAt := none } with hu
  have howned : Owned (some .park) u := by
    refine ⟨fun src hsrc => ?_, h.lit⟩
    have := h.follows src nofun
    cases src with
    | park => exact absurd rfl hsrc
    | _ => exact this
  have kept := sourcesKept_reportClear .park u
  refine (howned.kept kept).restore ?_
  have hclear : (reportClear .park u).holds.park = false :=
    get_reportClear_same (src := .park) hp nofun nofun
  exact hclear.trans kept.parkLatch.symm

theorem sourcesKept_enterGrantedPark (s : State) : SourcesKept none s (enterGrantedPark s) := by
  have htrail := (keeps_enterGrantedPark s).trail
  have hwind := (keeps_enterGrantedPark s).wind
  have hholds : (enterGrantedPark s).holds = { s.holds with parkGrantedAt := some s.now } := by
    cases hw : s.engine.work <;> simp [enterGrantedPark, announce, hw]
  refine ⟨fun src _ _ _ => ?_, by rw [hholds], by rw [hholds], hwind, htrail⟩
  rw [hholds]
  cases src <;> rfl

theorem owned_servePark {s : State} (h : Owned none s) (hp : s.part ≠ .config) :
    Owned none (servePark s) := by
  unfold servePark
  split
  · exact h.kept (sourcesKept_offer _ s)
  · set v := s.modHolds fun h => { h with parkLatch := true, parkLatchedAt := some s.now } with hv
    have howned : Owned (some .park) v := by
      refine ⟨fun src hsrc => ?_, h.lit⟩
      have := h.follows src nofun
      cases src with
      | park => exact absurd rfl hsrc
      | _ => exact this
    have kept := sourcesKept_reportSet .park v
    have hset : (reportSet .park v).holds.park = true :=
      get_reportSet_same .park hp nofun nofun
    have hu : Owned none (reportSet .park v) :=
      (howned.kept kept).restore (hset.trans kept.parkLatch.symm)
    dsimp only
    split
    · exact hu
    all_goals exact hu.kept (sourcesKept_enterGrantedPark _)

theorem sourcesKept_enterSettling (s : State) : SourcesKept none s (enterSettling s) := by
  have hholds : (enterSettling s).holds = s.holds := by
    cases hw : s.engine.work <;> simp [enterSettling, announce, headAt, hw]
  exact .of_holds hholds (keeps_enterSettling s).wind (keeps_enterSettling s).trail

theorem sourcesKept_endSettling (s : State) : SourcesKept none s (endSettling s) := by
  unfold endSettling
  exact (((sourcesKept_modEngine s _).trans (sourcesKept_takeHead _)).trans
    (sourcesKept_announce _)).trans (.of_progress (keeps_evaluate _) (progress_evaluate _))

theorem sourcesKept_afterEnded (s : State) : SourcesKept none s (afterEnded s) := by
  unfold afterEnded
  split_ifs
  · exact (sourcesKept_modEngine s _).trans (sourcesKept_announce _)
  · exact sourcesKept_endSettling s
  · exact sourcesKept_enterSettling s

theorem owned_parkAtEnded {s : State} (h : Owned none s) (hp : s.part ≠ .config) :
    Owned none (parkAtEnded s) := by
  unfold parkAtEnded
  split
  · refine (owned_clearParkLatch (h.kept (sourcesKept_offer _ s)) ?_).kept
      (sourcesKept_afterEnded _)
    rw [(keeps_offer _ s).part]
    exact hp
  · exact h.kept (sourcesKept_enterGrantedPark s)

theorem owned_finishPark {s : State} (h : Owned none s) (hp : s.part ≠ .config) :
    Owned none (finishPark s) := by
  unfold finishPark
  refine owned_clearParkLatch
    ((h.kept (sourcesKept_offer _ s)).kept (sourcesKept_modEngine _ _)) ?_
  rw [State.modEngine_part, (keeps_offer _ s).part]
  exact hp

theorem sourcesKept_finishStep (s : State) : SourcesKept none s (finishStep s) := by
  have hgone := sourcesKept_modEngine s fun e => { e with work := .none }
  unfold finishStep
  dsimp only
  split
  · exact hgone
  · split
    · exact hgone.trans (sourcesKept_completeRequest _ _ _)
    · split_ifs
      · exact hgone.trans (sourcesKept_completeRequest _ _ _)
      · exact .of_holds rfl rfl rfl
      · exact hgone.trans (sourcesKept_completeRequest _ _ _)
      · exact .of_holds rfl rfl rfl

theorem sourcesKept_reachOffset (achieved : Int) (g : Grant) (s : State) :
    SourcesKept none s (reachOffset achieved g s) := by
  unfold reachOffset
  dsimp only
  split
  · refine SourcesKept.trans ?_ (.of_progress (keeps_raiseFault _ _ _) (progress_raiseFault _ _ _))
    exact .of_holds rfl rfl rfl
  · exact .of_holds rfl rfl rfl

theorem finishStep_part (s : State) : (finishStep s).part = s.part := by
  unfold finishStep
  dsimp only
  split
  · rfl
  · split
    · exact (keeps_completeRequest _ _ _).part
    · split_ifs
      · exact (keeps_completeRequest _ _ _).part
      · rfl
      · exact (keeps_completeRequest _ _ _).part
      · rfl

theorem owned_endedWork (achieved : Int) (g : Grant) {s : State} (h : Lawful s)
    (hs : s.engine.state = .moving) : Owned none (endedWork achieved g s) := by
  obtain ⟨-, -, hpart⟩ := reachOffset_work achieved g hs
  have hreached := h.owned.kept (sourcesKept_reachOffset achieved g s)
  have hout : (reachOffset achieved g s).part ≠ .config := by rw [hpart]; exact h.out
  have hfinished := hreached.kept (sourcesKept_finishStep _)
  have hrequest : Owned none (if (finishStep (reachOffset achieved g s)).holds.parkLatch then
      parkAtEnded (finishStep (reachOffset achieved g s))
      else afterEnded (finishStep (reachOffset achieved g s))) := by
    split
    · exact owned_parkAtEnded hfinished (by rw [finishStep_part]; exact hout)
    · exact hfinished.kept (sourcesKept_afterEnded _)
  unfold endedWork
  cases s.engine.work with
  | park => exact (owned_finishPark hreached hout).kept (sourcesKept_afterEnded _)
  | request => exact hrequest
  | none => exact hrequest

end Sys2Proof.Machine
end

section
/-! SUPPORT. Every command from a lawful state outside CONFIG, one lemma a command. -/

namespace Sys2Proof.Machine

theorem mem_of_findTag {tag : W16} {q : List Request} {r : Request} (h : findTag tag q = some r) :
    r ∈ q := List.mem_of_find?_eq_some h

theorem tag_of_findTag {tag : W16} {q : List Request} {r : Request} (h : findTag tag q = some r) :
    r.tag = tag := by simpa using List.find?_some h

theorem fresh_of_findTag {tag : W16} {q : List Request} (h : (findTag tag q).isSome = false) :
    ∀ x ∈ q, x.tag ≠ tag := by
  have hnone : findTag tag q = none := by simpa using h
  simpa [findTag] using hnone

section
variable {s : State}

/-! ### Part control -/

theorem endsIn_configure (r : ConfigWire) (h : Lawful s) : EndsIn Kept (execConfigure r s) := by
  refine .portCommand (.inl h) ?_
  split
  · next hp => exact absurd hp h.out
  all_goals exact Kept.reply (.inl h) _ _

theorem endsIn_start (offset : W16) (h : Lawful s) : EndsIn Kept (execStart offset s) := by
  refine .portCommand (.inl h) ?_
  split
  · next hp => exact absurd hp h.out
  all_goals exact Kept.reply (.inl h) _ _

theorem endsIn_stop (h : Lawful s) : EndsIn Kept (execStop s) := by
  have hstopped : Lawful (stopEngine (s.withPart .stopping)) := by
    refine lawful_of_kept h (sound_stopEngine h.toSound) ?_
    exact SourcesKept.trans (t := s.withPart .stopping) (.of_holds rfl rfl rfl)
      (sourcesKept_stopEngine _)
  refine .portCommand (.inl h) ?_
  split
  · exact (kept_checkStopWork hstopped).reply _ _
  all_goals exact Kept.reply (.inl h) _ _

/-! ### The wind -/

theorem lawful_wind (direction speed : W16) (h : Lawful s) :
    Lawful (reportClear .wind (takeWind direction speed s)) := by
  have howned : Owned (some .wind) (takeWind direction speed s) := by
    refine ⟨fun src hsrc => ?_, h.owned.lit⟩
    have := h.owned.follows src nofun
    cases src with
    | wind => exact absurd rfl hsrc
    | _ => exact this
  refine lawful_reportClear (h.toSound.congr rfl rfl rfl rfl) howned ?_
  have hclear : (reportClear .wind (takeWind direction speed s)).holds.wind = false :=
    get_reportClear_same (src := .wind) h.out nofun nofun
  unfold OwnFollows
  rw [hclear, (keeps_reportClear _ _).wind]
  simp [takeWind]

theorem endsIn_wind (direction speed : W16) (h : Lawful s) :
    EndsIn Kept (execWind direction speed s) := by
  refine .portCommand (.inl h) ?_
  split
  · exact Kept.reply (.inl h) _ _
  all_goals exact Kept.reply (.inl (lawful_wind direction speed h)) _ _

theorem endsIn_windStalenessExpiry (h : Lawful s) : EndsIn Kept (execWindStalenessExpiry s) := by
  refine .next (.inl ?_)
  split
  · set u := s.modWind fun w => { w with condition := .stale, staleness := none } with hu
    have howned : Owned (some .wind) u := by
      refine ⟨fun src hsrc => ?_, h.owned.lit⟩
      have := h.owned.follows src nofun
      cases src with
      | wind => exact absurd rfl hsrc
      | _ => exact this
    refine lawful_raiseFault _ _ (lawful_reportSet (h.toSound.congr rfl rfl rfl rfl) howned ?_)
    have hset : (reportSet .wind u).holds.wind = true :=
      get_reportSet_same .wind h.out nofun nofun
    unfold OwnFollows
    rw [hset, (keeps_reportSet _ _).wind]
    simp [hu]
  · exact h

/-! ### Requests -/

theorem lawful_acceptRequest {r : Request} (h : Lawful s) (hp : s.part ≠ .stopping)
    (hr : r.position = .queued) (hfresh : ∀ x ∈ s.queue, x.tag ≠ r.tag) (h0 : r.tag ≠ 0) :
    Lawful (acceptRequest r s) := by
  refine lawful_of_kept h (sound_acceptRequest h.toSound hp hr hfresh h0) ?_
  have hplaced := sourcesKept_modQueue s (placeRequest r)
  unfold acceptRequest
  refine SourcesKept.trans ?_ (sourcesKept_evalPoint _ _)
  split
  · exact hplaced.trans (sourcesKept_takeHead _)
  · exact hplaced.trans (sourcesKept_takeHead _)
  all_goals exact hplaced

theorem endsIn_submit (tag : W16) (cls : Byte) (target : W16) (wf : Byte) (wd : W16) (ef : Byte)
    (ed : W16) (h : Lawful s) : EndsIn Kept (execSubmit tag cls target wf wd ef ed s) := by
  have refused : ∀ a, Kept (refuse a s) := fun a => Kept.reply (.inl h) a []
  refine .portCommand (.inl h) ?_
  split
  · exact refused _
  · exact refused _
  · next hp =>
    split
    · exact refused _
    · next h0 =>
      split
      · exact refused _
      · split
        · exact refused _
        · next hdup =>
          split
          · exact refused _
          · exact Kept.reply (.inl (lawful_acceptRequest h (by rw [hp]; nofun) rfl
              (fresh_of_findTag (Bool.eq_false_iff.2 hdup)) h0)) _ _

theorem endsIn_submitSweep (tag : W16) (cls : Byte) (step count : W16) (pacing : Byte)
    (interval : W16) (policy : Byte) (h : Lawful s) :
    EndsIn Kept (execSubmitSweep tag cls step count pacing interval policy s) := by
  have refused : ∀ a, Kept (refuse a s) := fun a => Kept.reply (.inl h) a []
  refine .portCommand (.inl h) ?_
  split
  · exact refused _
  · exact refused _
  · next hp =>
    split
    · exact refused _
    · next h0 =>
      split
      · exact refused _
      · split
        · exact refused _
        · split
          · exact refused _
          · split
            · exact refused _
            · next hdup =>
              split
              · exact refused _
              · exact Kept.reply (.inl (lawful_acceptRequest h (by rw [hp]; nofun) rfl
                  (fresh_of_findTag (Bool.eq_false_iff.2 hdup)) h0)) _ _

theorem endsIn_extend (tag extension : W16) (h : Lawful s) :
    EndsIn Kept (execExtend tag extension s) := by
  have refused : ∀ a, Kept (refuse a s) := fun a => Kept.reply (.inl h) a []
  refine .portCommand (.inl h) ?_
  split
  · exact refused _
  · exact refused _
  · split
    · exact refused _
    · next r hfind =>
      split
      · exact refused _
      · split_ifs
        · exact refused _
        · exact refused _
        · refine Kept.reply (.inl (lawful_of_kept h ?_ (sourcesKept_modQueue s _))) _ _
          rw [← tag_of_findTag hfind]
          exact sound_modTag h.toSound (mem_of_findTag hfind)
            (inPlace_modSweep (fun _ hc => hc) fun _ _ _ => rfl)

theorem endsIn_confirm (h : Lawful s) : EndsIn Kept (execConfirm s) := by
  have refused : ∀ a, Kept (refuse a s) := fun a => Kept.reply (.inl h) a []
  refine .portCommand (.inl h) ?_
  split
  · exact refused _
  · exact refused _
  · split
    · exact refused _
    · next r rest hq =>
      split
      · exact refused _
      · split
        · exact refused _
        · have hflag : Lawful (s.modQueue
              (modFront (Request.modSweep fun v => { v with confirm := true }))) :=
            lawful_of_kept h (sound_modFront h.toSound hq
              (inPlace_modSweep (fun _ hc => hc) fun _ _ _ => rfl)) (sourcesKept_modQueue s _)
          refine Kept.reply (.inl ?_) _ _
          split
          · exact hflag
          · exact lawful_evalPoint _ hflag

theorem endsIn_cancel (tag : W16) (h : Lawful s) : EndsIn Kept (execCancel tag s) := by
  have refused : ∀ a, Kept (refuse a s) := fun a => Kept.reply (.inl h) a []
  have body : Kept (match findTag tag s.queue with
      | none => refuse .noSuchTag s
      | some r =>
        if r.position = .moving ∧ r.isSweep = false then refuse .inMotion s
        else if guardLevel s then refuse .logFull s
        else answerOk (cancelRequest r s)) := by
    split
    · exact refused _
    · next r hfind =>
      split_ifs
      · exact refused _
      · exact refused _
      · exact Kept.reply (.inl (lawful_of_kept h (sound_cancelRequest h.toSound
          (mem_of_findTag hfind)) (sourcesKept_cancelRequest r s))) _ _
  refine .portCommand (.inl h) ?_
  split
  · exact refused _
  · exact body
  · exact body

theorem endsIn_waiveTime (tag : W16) (h : Lawful s) : EndsIn Kept (execWaiveTime tag s) := by
  refine .next (.inl ?_)
  split
  · exact h
  · next r hfind =>
    split
    · exact h
    · split
      · have hwaived : Lawful (s.modQueue
            (modTag tag (Request.modMove fun v => { v with waiveRuns := false }))) := by
          refine lawful_of_kept h ?_ (sourcesKept_modQueue s _)
          rw [← tag_of_findTag hfind]
          exact sound_modTag h.toSound (mem_of_findTag hfind) (inPlace_modMove fun _ _ _ => rfl)
        dsimp only
        split
        · exact lawful_evalPoint _ hwaived
        · exact hwaived
      · exact h

theorem endsIn_expiryTime (tag : W16) (h : Lawful s) : EndsIn Kept (execExpiryTime tag s) := by
  refine .next (.inl ?_)
  split
  · exact h
  · next r hfind =>
    split
    · exact h
    · split
      · exact lawful_of_kept h (sound_expireRequest h.toSound (mem_of_findTag hfind))
          (sourcesKept_expireRequest r s)
      · exact h

theorem endsIn_paceDeadline (tag : W16) (h : Lawful s) : EndsIn Kept (execPaceDeadline tag s) := by
  refine .next (.inl ?_)
  split
  · exact h
  · next r hfind =>
    split
    · exact h
    · next w _ =>
      split
      · exact lawful_of_kept h (sound_judgePace w h.toSound (mem_of_findTag hfind))
          (sourcesKept_judgePace r w s)
      · exact h

/-! ### The grant handshake and the engine's expiries -/

theorem lawful_enterMoving (g : Grant) (h : Lawful s) (hs : s.engine.state = .granted) :
    Lawful (enterMoving g s) := by
  refine lawful_of_kept h (sound_enterMoving h.toUpright hs) ?_
  rw [enterMoving_eq_announce]
  exact SourcesKept.trans (t := movingEntered g s) (.of_holds rfl rfl rfl) (sourcesKept_announce _)

theorem endsIn_begun (tag : W16) (h : Lawful s) : EndsIn Kept (execBegun tag s) := by
  have refused : ∀ a, Kept (refuse a s) := fun a => Kept.reply (.inl h) a []
  have body : Kept (match s.engine.state, s.engine.grant with
      | .granted, some g =>
        if tag = g.tag then answerOk (enterMoving g s)
        else if s.engine.lapsedTag = some tag then refuse .staleGrant s
        else refuse .noGrant s
      | _, _ =>
        if s.engine.lapsedTag = some tag then refuse .staleGrant s else refuse .noGrant s) := by
    split
    · next g hs _ =>
      split_ifs
      · exact Kept.reply (.inl (lawful_enterMoving g h hs)) _ _
      · exact refused _
      · exact refused _
    · split_ifs
      · exact refused _
      · exact refused _
  refine .portCommand (.inl h) ?_
  split
  · exact refused _
  · exact body
  · exact body

theorem endsIn_ended (tag achieved : W16) (h : Lawful s) : EndsIn Kept (execEnded tag achieved s) := by
  have refused : ∀ a, Kept (refuse a s) := fun a => Kept.reply (.inl h) a []
  have body : Kept (match s.engine.state, s.engine.grant with
      | .moving, some g =>
        if tag = g.tag then answerOk (endMove (clampOffset achieved.toInt) g s)
        else refuse .noGrant s
      | _, _ => refuse .noGrant s) := by
    split
    · next g hs _ =>
      split
      · rw [endMove_eq]
        exact (kept_checkStopWork ⟨sound_endedWork _ g h.toUpright hs,
          owned_endedWork _ g h hs⟩).reply _ _
      · exact refused _
    · exact refused _
  refine .portCommand (.inl h) ?_
  split
  · exact refused _
  · exact body
  · exact body

theorem endsIn_holdOffExpiry (h : Lawful s) : EndsIn Kept (execHoldOffExpiry s) := by
  refine .next (.inl ?_)
  split
  · next hdue =>
    obtain ⟨-, hs⟩ := hdue
    set u := s.modEngine fun e => { e with expired := true, holdOff := none } with hu
    have hup : Upright u := by
      obtain ⟨r, rest, hq, work, grant, startTimeout, overrun, settle, part, position, deferred,
        queued⟩ := h.standing.of_intent hs
      refine ⟨h.out, h.tags, ?_⟩
      rw [hu, State.modEngine_queue, hq]
      exact .intent hs work grant startTimeout overrun settle part position deferred queued
    have hsources : SourcesKept none s u := sourcesKept_modEngine s _
    dsimp only
    split
    · exact lawful_of_kept h (sound_commitTest hup hs)
        (hsources.trans (.of_progress (keeps_commitTest _) (progress_commitTest _)))
    · exact lawful_of_kept h ⟨hup, h.blocks⟩ hsources
  · exact h

theorem endsIn_yieldPauseExpiry (h : Lawful s) : EndsIn Kept (execYieldPauseExpiry s) := by
  refine .next (.inl ?_)
  split
  · have hcoherent : EngineCoherent s := coherent_of_standing h.standing
    have hstand : EngineCoherent (s.modEngine fun e => { e with yieldPause := none }) := hcoherent
    exact lawful_of_kept h (sound_evaluate ⟨⟨h.out, h.tags, standing_of_coherent hstand⟩, h.blocks⟩)
      ((sourcesKept_modEngine s _).trans (.of_progress (keeps_evaluate _) (progress_evaluate _)))
  · exact h

theorem endsIn_startTimeoutExpiry (h : Lawful s) : EndsIn Kept (execStartTimeoutExpiry s) := by
  refine .next (.inl ?_)
  split
  · next g r rest hs hw hg hq =>
    split
    · refine lawful_of_kept h (sound_noStart _ h.toSound hs hw hq) ?_
      refine SourcesKept.trans ?_ (sourcesKept_completeHead _ _ _)
      refine SourcesKept.trans (t := raiseFault .noStart (tagContext g.tag) s)
        (.of_progress (keeps_raiseFault _ _ _) (progress_raiseFault _ _ _)) ?_
      split
      · exact sourcesKept_lapse _
      · exact SourcesKept.refl _ _
    · exact h
  · exact h

theorem endsIn_overrunExpiry (h : Lawful s) : EndsIn Kept (execOverrunExpiry s) := by
  refine .next (.inl ?_)
  split
  · next g hs _ =>
    split
    · exact lawful_raiseFault _ _
        (lawful_of_kept h (sound_overrun h.toSound hs) (sourcesKept_modEngine s _))
    · exact h
  · exact h

theorem endsIn_settleExpiry (h : Lawful s) : EndsIn Kept (execSettleExpiry s) := by
  refine .next (.inl ?_)
  split
  · next hdue =>
    exact lawful_of_kept h (sound_settled h.toUpright hdue.2) (sourcesKept_endSettling s)
  · exact h

/-! ### Holds, STORM and the park -/

/-- A source without an owner, reported set or clear. -/
theorem lawful_soft (h : Lawful s) : Lawful (reportSet .soft s) ∧ Lawful (reportClear .soft s) ∧
    Lawful (reportClear .halt s) :=
  ⟨lawful_reportSet h.toSound (h.owned.leave _) trivial,
    lawful_reportClear h.toSound (h.owned.leave _) trivial,
    lawful_reportClear h.toSound (h.owned.leave _) trivial⟩

theorem endsIn_hold (h : Lawful s) : EndsIn Kept (execHold s) := by
  refine .portCommand (.inl h) ?_
  split
  · exact Kept.reply (.inl h) _ _
  all_goals exact Kept.reply (.inl (lawful_soft h).1) _ _

theorem endsIn_release (h : Lawful s) : EndsIn Kept (execRelease s) := by
  obtain ⟨-, hclear, -⟩ := lawful_soft h
  refine .portCommand (.inl h) ?_
  split
  · exact Kept.reply (.inl h) _ _
  all_goals exact Kept.reply (.inl hclear) _ _

theorem Owned.modStorm (h : Owned none s) (b : Bool) :
    Owned (some .storm) (s.modHolds fun h => { h with stormLatch := b }) := by
  refine ⟨fun src hsrc => ?_, h.lit⟩
  have := h.follows src nofun
  cases src with
  | storm => exact absurd rfl hsrc
  | _ => exact this

theorem lawful_setStorm (h : Sound s) (ho : Owned none s) :
    Lawful (reportSet .storm (s.modHolds fun h => { h with stormLatch := true })) := by
  have howned := ho.modStorm true
  generalize hu : s.modHolds (fun h => { h with stormLatch := true }) = u at howned
  have hsound : Sound u := by rw [← hu]; exact h.congr rfl rfl rfl rfl
  have hlatch : u.holds.stormLatch = true := by rw [← hu]; rfl
  have hset : (reportSet .storm u).holds.storm = true :=
    get_reportSet_same .storm hsound.out nofun nofun
  exact lawful_reportSet hsound howned
    (hset.trans ((sourcesKept_reportSet .storm u).stormLatch.trans hlatch).symm)

theorem lawful_clearStorm (h : Lawful s) : Lawful (clearStorm s) := by
  unfold clearStorm
  split
  · exact h
  · have howned := h.owned.modStorm false
    generalize hu : s.modHolds (fun h => { h with stormLatch := false }) = u at howned
    have hsound : Sound u := by rw [← hu]; exact h.toSound.congr rfl rfl rfl rfl
    have hlatch : u.holds.stormLatch = false := by rw [← hu]; rfl
    have hclear : (reportClear .storm u).holds.storm = false :=
      get_reportClear_same (src := .storm) hsound.out nofun nofun
    exact lawful_reportClear hsound howned
      (hclear.trans ((sourcesKept_reportClear .storm u).stormLatch.trans hlatch).symm)

theorem endsIn_clearHold (source : Byte) (h : Lawful s) : EndsIn Kept (execClearHold source s) := by
  have body : Kept (if HoldSource.ofCode source = some .storm then answerOk (clearStorm s)
      else refuse .badValue s) := by
    split
    · exact Kept.reply (.inl (lawful_clearStorm h)) _ _
    · exact Kept.reply (.inl h) _ _
  refine .portCommand (.inl h) ?_
  split
  · exact Kept.reply (.inl h) _ _
  · exact body
  · exact body

theorem endsIn_resume (h : Lawful s) : EndsIn Kept (execResume s) := by
  obtain ⟨-, -, hclear⟩ := lawful_soft h
  have body : Kept (if s.recorder.status &&& s.cfg.faultSeverities ≠ 0 then refuse .faultPending s
      else answerOk (reportClear .halt s)) := by
    split
    · exact Kept.reply (.inl h) _ _
    · exact Kept.reply (.inl hclear) _ _
  refine .portCommand (.inl h) ?_
  split
  · exact Kept.reply (.inl h) _ _
  · exact body
  · exact body

theorem endsIn_stormLineEvent (high : Bool) (h : Lawful s) :
    EndsIn Kept (execStormLineEvent high s) := by
  refine .next (.inl ?_)
  split
  · exact h
  · have hpins : Lawful (s.modPins fun p => { p with storm := high }) :=
      h.congr rfl rfl rfl rfl rfl rfl
    dsimp only
    split
    · exact lawful_setStorm hpins.toSound hpins.owned
    · exact hpins

theorem endsIn_parkFallingEdge (h : Lawful s) : EndsIn Kept (execParkFallingEdge s) := by
  refine .next ?_
  split
  · exact kept_checkStopWork ⟨sound_servePark h.toSound, owned_servePark h.owned h.out⟩
  · exact .inl h

theorem endsIn_guardAfterStart (h : Lawful s) : EndsIn Kept (execGuardAfterStart s) := by
  refine .next (.inl ?_)
  exact lawful_of_kept h (sound_guardRise h.toSound)
    (.of_progress (keeps_guardRise _) (progress_guardRise _))

/-! ### Reports -/

theorem lawful_afterFall (h : Lawful s) : Lawful (afterFall s) := by
  have hcompleted := lawful_of_kept h (sound_completeDeferred s.queue.length h.toSound)
    (sourcesKept_completeDeferred _ _)
  unfold afterFall
  dsimp only
  split
  · have hserved := lawful_reportGuard hcompleted
    split
    · exact lawful_evalPoint _ hserved
    · exact hserved
  · split
    · exact lawful_evalPoint _ h
    · exact h

theorem endsIn_takeOutcomes (n : Byte) (h : Lawful s) : EndsIn Kept (execTakeOutcomes n s) := by
  have htaken : Lawful (takeRecords (takeCount n s) s) := h.congr rfl rfl rfl rfl rfl rfl
  refine .portCommand (.inl h) (Kept.reply (.inl ?_) _ _)
  split
  · exact htaken
  · exact lawful_afterFall htaken

/-! ### The link -/

theorem endsIn_lsdDeasserted (h : Lawful s) : EndsIn Kept (execLsdDeasserted s) := by
  have hpins : Lawful (s.modPins fun p => { p with light := false }) :=
    h.congr rfl rfl rfl rfl rfl rfl
  refine .next (.inl ?_)
  split
  · dsimp only
    split
    · exact lawful_modLink hpins _ rfl
    · exact hpins
  · exact h

theorem endsIn_lsdAsserted (h : Lawful s) : EndsIn Kept (execLsdAsserted s) := by
  have hpins : Lawful (s.modPins fun p => { p with light := true }) :=
    h.congr rfl rfl rfl rfl rfl rfl
  refine .next (.inl ?_)
  split
  · exact h
  · dsimp only
    split
    · exact lawful_modLink hpins _ rfl
    · exact lawful_modLink hpins _ rfl
    · exact lawful_modLink hpins _ rfl
    · next hdown =>
      have htrail : (s.link.enterListen s.cfg s.now true).trail.current = .listen :=
        Trail.current_push _ _
      refine ⟨hpins.toSound.congr rfl rfl rfl rfl,
        (hpins.owned.modLink _ (by rw [State.modPins_link, htrail]; nofun)).restore ?_⟩
      have hlink : s.holds.link = true := by
        have := h.owned.follows .link nofun
        unfold OwnFollows at this
        rw [hdown] at this
        exact this.2 nofun
      unfold OwnFollows
      rw [State.modLink_link, State.modPins_link, htrail]
      exact ⟨fun _ => nofun, fun _ => hlink⟩
    · exact hpins

theorem lawful_takeFrame (h : Lawful s) : Lawful (takeFrame s) := by
  unfold takeFrame
  split
  · exact h.congr rfl rfl rfl rfl rfl rfl
  · exact h

theorem endsIn_frameReceived (rx : Received) (h : Lawful s) :
    EndsIn Kept (execFrameReceived rx s) := by
  refine .next ?_
  split
  · split
    · next bytes f _ =>
      split
      · unfold ownFrame
        split
        · split
          · exact kept_goodEcho h
          · exact kept_collision h
        all_goals exact .inl (lawful_raiseFault _ _ h)
      · unfold otherFrame
        have hheard := lawful_modLink h (fun l =>
          { l with heardOther := l.heardOther || decide (l.trail.current = .check) }) rfl
        dsimp only
        split
        · exact .inl (lawful_raiseFault _ _ hheard)
        · exact .inl (lawful_takeFrame (lawful_modLink hheard _ rfl))
    · exact .inl h
  · exact .inl h

theorem endsIn_laneActivity (h : Lawful s) : EndsIn Kept (execLaneActivity s) := by
  have hpins : Lawful (s.modPins fun p => { p with laneActive := true }) :=
    h.congr rfl rfl rfl rfl rfl rfl
  refine .next (.inl ?_)
  dsimp only
  split
  · exact lawful_modLink hpins _ rfl
  all_goals exact hpins

theorem endsIn_laneQuiet (h : Lawful s) : EndsIn Kept (execLaneQuiet s) := by
  have hpins : Lawful (s.modPins fun p => { p with laneActive := false }) :=
    h.congr rfl rfl rfl rfl rfl rfl
  refine .next (.inl ?_)
  dsimp only
  split
  · exact lawful_modLink hpins _ rfl
  all_goals exact hpins

theorem Link.enterSend_trail (c : Config) (now : Nat) (l : Link) :
    (l.enterSend c now).trail = l.trail := by
  unfold Link.enterSend
  split <;> rfl

theorem endsIn_gapEnd (h : Lawful s) : EndsIn Kept (execGapEnd s) := by
  refine .next (.inl ?_)
  split
  · exact lawful_modLink h _ (Link.enterSend_trail _ _ _)
  all_goals exact h

theorem endsIn_endOfTransmission (h : Lawful s) : EndsIn Kept (execEndOfTransmission s) := by
  refine .next (.inl ?_)
  split
  · exact lawful_modLink h _ rfl
  all_goals exact h

theorem endsIn_echoDeadline (h : Lawful s) : EndsIn Kept (execEchoDeadline s) := by
  refine .next ?_
  split
  · exact kept_collision h
  all_goals exact .inl h

theorem endsIn_backoffEnd (h : Lawful s) : EndsIn Kept (execBackoffEnd s) := by
  refine .next (.inl ?_)
  split
  · exact lawful_modLink h _ (Link.beginAttempt_trail _ _)
  all_goals exact h

theorem endsIn_listenTimerExpiry (h : Lawful s) : EndsIn Kept (execListenTimerExpiry s) := by
  refine .next (.inl ?_)
  split
  · exact lawful_enterReady h
  · exact h

theorem endsIn_checkPeriodExpiry (h : Lawful s) : EndsIn Kept (execCheckPeriodExpiry s) := by
  refine .next (.inl ?_)
  split
  · split
    · exact lawful_enterReady h
    · exact lawful_modLink h _ rfl
  · exact h

theorem endsIn_signalLossTimerExpiry (h : Lawful s) :
    EndsIn Kept (execSignalLossTimerExpiry s) := by
  refine .next ?_
  split
  · split
    · exact .inl (lawful_enterDown h)
    · exact .inr (resting_enterConfig _)
  · exact .inl h

theorem endsIn_refreshTimerExpiry (h : Lawful s) : EndsIn Kept (execRefreshTimerExpiry s) := by
  refine .next (.inl ?_)
  split
  · have hstopped := lawful_modLink h (fun l => { l with refresh := none }) rfl
    dsimp only
    split
    · exact lawful_modLink hstopped _ (Link.beginAttempt_trail _ _)
    · exact hstopped
  · exact h

/-! ### The intake and the tables -/

theorem endsIn_geometryPoint (h : Lawful s) : EndsIn Kept (execGeometryPoint s) := by
  refine .next (.inl ?_)
  split
  · split
    · exact h.congr rfl rfl rfl rfl rfl rfl
    · exact h
  · exact h

theorem lawful_tableStep (f : Frame) (arrival : Nat) (g : Option GeometryResult) (h : Lawful s) :
    Lawful (tableStep f arrival g s) := by
  rcases tableStep_cases f arrival g s with hn | ⟨ctx, hf⟩
  · rw [hn]
    exact h.congr rfl rfl rfl rfl rfl rfl
  · rw [hf]
    exact lawful_raiseFault _ _ h

theorem lawful_modWindows (f : List Window → List Window) (h : Lawful s) :
    Lawful (s.modWindows f) := h.congr rfl rfl rfl rfl rfl rfl

theorem lawful_createWindow (w : Window) (h : Lawful s) : Lawful (createWindow w s) := by
  unfold createWindow
  split
  · exact h
  · split
    · exact lawful_modWindows _ h
    · split
      · exact lawful_modWindows _ h
      · split
        · exact lawful_raiseFault _ _ (lawful_modWindows _ h)
        · exact lawful_raiseFault _ _ h

theorem lawful_keyStep (f : Frame) (arrival along : Nat) (across : Int) (delay : Nat)
    (h : Lawful s) : Lawful (keyStep f arrival along across delay s) := by
  obtain hk | ⟨w, -, -, -, ⟨-, hk⟩ | ⟨v, -, hk⟩⟩ := keyStep_cases f arrival along across delay s
  · rw [hk]; exact h
  · rw [hk]; exact lawful_createWindow w h
  · rw [hk]; exact lawful_modWindows _ h

theorem lawful_rederive (h : Lawful s) : Lawful (rederive s) := h.congr rfl rfl rfl rfl rfl rfl

theorem lawful_windowStep (f : Frame) (arrival : Nat) (g : Option GeometryResult) (h : Lawful s) :
    Lawful (windowStep f arrival g s) := by
  rw [windowStep_eq]
  refine lawful_rederive ?_
  unfold windowWrites
  split
  · have hothers := lawful_modWindows (settleOthers s.cfg s.now arrival f.station f.move) h
    dsimp only
    split
    · exact lawful_keyStep f arrival _ _ _ hothers
    · exact lawful_modWindows _ hothers
    · exact hothers
  · exact lawful_modWindows _ h

theorem endsIn_intakeCompletion (h : Lawful s) : EndsIn Kept (execIntakeCompletion s) := by
  refine .next (.inl ?_)
  split
  · split
    · have hidle : Lawful (s.withIntake none) := h.congr rfl rfl rfl rfl rfl rfl
      refine lawful_takeFrame ?_
      split
      · exact hidle
      · exact lawful_evalPoint _ (lawful_windowStep _ _ _ (lawful_tableStep _ _ _ hidle))
    · exact h
  · exact h

theorem endsIn_entryExpiry (station : Nat) (h : Lawful s) :
    EndsIn Kept (execEntryExpiry station s) := by
  refine .next (.inl ?_)
  split
  · split
    · exact lawful_evalPoint _ (h.congr rfl rfl rfl rfl rfl rfl)
    · exact h
  · exact h

theorem endsIn_windowClose (station : Nat) (move : Byte) (h : Lawful s) :
    EndsIn Kept (execWindowClose station move s) := by
  refine .next (.inl ?_)
  split
  · split
    · exact lawful_evalPoint _ (lawful_rederive (lawful_modWindows _ h))
    · exact h
  · exact h

theorem endsIn_binBoundary (h : Lawful s) : EndsIn Kept (execBinBoundary s) := by
  refine .next (.inl ?_)
  split
  · next hdue =>
    have hmap : Lawful (rederive (s.modMap fun m =>
        { m with base := m.base + binPeriod s.cfg
                 boundary := later (m.base + binPeriod s.cfg) (binPeriod s.cfg) })) :=
      lawful_rederive (h.congr rfl rfl rfl rfl rfl rfl)
    dsimp only
    split
    · exact hmap
    · exact lawful_evalPoint _ hmap
  · exact h

end

/-! ### Every command -/

theorem endsIn_exec_lawful (c : Instr) {s : State} (h : Lawful s) : EndsIn Kept (exec c s) := by
  have unchanged : ∀ {t : State}, t.part = s.part → t.engine = s.engine → t.queue = s.queue →
      t.holds = s.holds → t.wind = s.wind → t.link.trail = s.link.trail → Kept t :=
    fun h1 h2 h3 h4 h5 h6 => .inl (h.congr h1 h2 h3 h4 h5 h6)
  cases c with
  | hardwareReset selLow => exact resting_reset selLow s
  | localTimeTick => exact .next (unchanged rfl rfl rfl rfl rfl rfl)
  | configure r => exact endsIn_configure r h
  | start offset => exact endsIn_start offset h
  | stop => exact endsIn_stop h
  | wind direction speed => exact endsIn_wind direction speed h
  | submit tag cls target wf wd ef ed => exact endsIn_submit tag cls target wf wd ef ed h
  | submitSweep tag cls step count pacing interval policy =>
    exact endsIn_submitSweep tag cls step count pacing interval policy h
  | extend tag extension => exact endsIn_extend tag extension h
  | confirm => exact endsIn_confirm h
  | cancel tag => exact endsIn_cancel tag h
  | begun tag => exact endsIn_begun tag h
  | ended tag achieved => exact endsIn_ended tag achieved h
  | hold => exact endsIn_hold h
  | release => exact endsIn_release h
  | clearHold source => exact endsIn_clearHold source h
  | resume => exact endsIn_resume h
  | status =>
    refine .portCommand (.inl h) (Kept.reply ?_ _ _)
    exact unchanged rfl rfl rfl rfl rfl rfl
  | takeOutcomes n => exact endsIn_takeOutcomes n h
  | readNeighbours first => exact endsIn_kept_reply (.inl h) (.inl h) _ _
  | readWindows first => exact endsIn_kept_reply (.inl h) (.inl h) _ _
  | clearFaults kinds =>
    refine .portCommand (.inl h) (Kept.reply ?_ _ _)
    exact unchanged rfl rfl rfl rfl rfl rfl
  | clearLost =>
    refine .portCommand (.inl h) (Kept.reply ?_ _ _)
    exact unchanged rfl rfl rfl rfl rfl rfl
  | unknownCode code => exact endsIn_kept_reply (.inl h) (.inl h) _ _
  | stormLineEvent high => exact endsIn_stormLineEvent high h
  | parkFallingEdge => exact endsIn_parkFallingEdge h
  | lsdDeasserted => exact endsIn_lsdDeasserted h
  | lsdAsserted => exact endsIn_lsdAsserted h
  | frameReceived rx => exact endsIn_frameReceived rx h
  | laneActivity => exact endsIn_laneActivity h
  | laneQuiet => exact endsIn_laneQuiet h
  | gapEnd => exact endsIn_gapEnd h
  | endOfTransmission => exact endsIn_endOfTransmission h
  | echoDeadline => exact endsIn_echoDeadline h
  | backoffEnd => exact endsIn_backoffEnd h
  | listenTimerExpiry => exact endsIn_listenTimerExpiry h
  | checkPeriodExpiry => exact endsIn_checkPeriodExpiry h
  | signalLossTimerExpiry => exact endsIn_signalLossTimerExpiry h
  | refreshTimerExpiry => exact endsIn_refreshTimerExpiry h
  | geometryPoint => exact endsIn_geometryPoint h
  | intakeCompletion => exact endsIn_intakeCompletion h
  | entryExpiry station => exact endsIn_entryExpiry station h
  | windowClose station move => exact endsIn_windowClose station move h
  | binBoundary => exact endsIn_binBoundary h
  | windStalenessExpiry => exact endsIn_windStalenessExpiry h
  | waiveTime tag => exact endsIn_waiveTime tag h
  | expiryTime tag => exact endsIn_expiryTime tag h
  | paceDeadline tag => exact endsIn_paceDeadline tag h
  | holdOffExpiry => exact endsIn_holdOffExpiry h
  | yieldPauseExpiry => exact endsIn_yieldPauseExpiry h
  | startTimeoutExpiry => exact endsIn_startTimeoutExpiry h
  | overrunExpiry => exact endsIn_overrunExpiry h
  | settleExpiry => exact endsIn_settleExpiry h
  | guardAfterStart => exact endsIn_guardAfterStart h
  | transactionEnd => exact .next (unchanged rfl rfl rfl rfl rfl rfl)

end Sys2Proof.Machine
end

section
/-! SUPPORT. Every command from the part at rest: START lifts it into RUNNING, every other one leaves it at
rest (R193). -/

namespace Sys2Proof.Machine

/-! ### What rest makes of the events -/

/-- The facts of rest that the events look at. -/
structure Silent (s : State) : Prop where
  part : s.part = .config
  trail : s.link.trail.current = .off
  stage : s.link.stage = .idle
  buffer : s.link.buffer = []
  timers : s.link.listenTimer = none ∧ s.link.checkTimer = none ∧ s.link.signalLoss = none ∧
    s.link.refresh = none
  state : s.engine.state = .idle
  yieldPause : s.engine.yieldPause = none
  queue : s.queue = []
  tables : s.neighbours = [] ∧ s.windows = []
  wind : s.wind = WindRecord.clear
  void : ∀ w, s.intake = some w → w.void = true

theorem Resting.silent {s : State} (h : Resting s) : Silent s := by
  obtain ⟨trail, stage, -, -, buffer, listenTimer, checkTimer, signalLoss, refresh, state, -, -, -,
    yieldPause, -, -, -, -, -, -, neighbours, windows, queue, wind, void⟩ := h.rest h.part
  exact ⟨h.part, trail, stage, buffer, ⟨listenTimer, checkTimer, signalLoss, refresh⟩, state,
    yieldPause, queue, ⟨neighbours, windows⟩, wind, void⟩

section
variable {s : State}

theorem Silent.linesObserved (h : Silent s) : linesObserved s = false := by
  simp [Machine.linesObserved, h.part]

theorem Silent.receives (h : Silent s) : s.link.trail.current.receives = false := by
  rw [h.trail]; rfl

theorem due_none (now : Nat) : Timer.due none now = false := rfl

theorem Silent.evalPoint (h : Silent s) (atIntake : Bool) : evalPoint atIntake s = s :=
  evalPoint_of_other atIntake (by rw [h.state]; nofun) (by rw [h.state]; nofun)

theorem Silent.afterFall (h : Silent s) : afterFall s = s := by
  have hguard : reportGuard (completeDeferred s.queue.length s) = s := by
    rw [h.queue]
    unfold completeDeferred reportGuard reportSet reportClear
    simp [h.part]
  unfold Machine.afterFall
  rw [hguard]
  dsimp only
  split <;> rw [h.evalPoint] <;> simp

/-- A port command answered WRONG-STATE in CONFIG. -/
theorem Resting.refused (h : Resting s) (a : Answer) : EndsIn Kept (portCommand s (refuse a s)) :=
  endsIn_kept_reply (.inr h) (.inr h) a []

theorem Resting.kept_of (h : Resting s) {t : State} (k : Undisturbed s t) : Kept t :=
  .inr (h.undisturbed k)

/-! ### START -/

/-- The engine at rest is sound as soon as the part leaves CONFIG. -/
theorem Resting.sound_of_out (h : Resting s) {t : State} (hp : t.part ≠ .config)
    (hq : t.queue = s.queue) (he : ∃ o, t.engine = { s.engine with offset := o }) : Sound t := by
  obtain ⟨-, -, -, -, -, -, -, -, -, state, work, grant, holdOff, -, startTimeout, overrun, settle,
    echo, expired, -, -, -, queue, -, -⟩ := h.rest h.part
  obtain ⟨o, he⟩ := he
  refine sound_of_idle hp (hq.trans queue) ?_ ?_ ⟨⟨?_, ?_, ?_⟩, ?_, ?_, ?_, ?_⟩ <;> rw [he] <;>
    assumption

/-- START sets the sources WIND and LINK, and STORM with its latch (R191). -/
theorem Resting.lawful_startPart (h : Resting s) (offset : Int) : Lawful (startPart offset s) := by
  obtain ⟨-, -, -, -, -, -, -, -, -, -, -, -, -, -, -, -, -, -, -, holds, -, -, -, wind, -⟩ :=
    h.rest h.part
  unfold startPart
  dsimp only
  generalize hs2 : State.modLink (State.modBuilder _ _) _ = s2
  have hpart : s2.part = .running := by rw [← hs2]; rfl
  have hholds : s2.holds = Holds.reset := by rw [← hs2]; exact holds
  have hwind : s2.wind = WindRecord.clear := by rw [← hs2]; exact wind
  have htrail : s2.link.trail.current = .listen := by
    rw [← hs2]
    obtain ⟨hkeep, -⟩ := Link.write_keeps s.pins.laneActive true
      (content (State.modBuilder _ _)) (State.modBuilder (State.modLink _ _) _).link
    exact (congrArg Trail.current hkeep).trans (Trail.current_push _ _)
  have hout : s2.part ≠ .config := by rw [hpart]; nofun
  have hsound : Sound s2 := h.sound_of_out hout (by rw [← hs2]; rfl)
    ⟨clampOffset offset, by rw [← hs2]; rfl⟩
  have hw := sourcesKept_reportSet .wind s2
  have hl := sourcesKept_reportSet .link (reportSet .wind s2)
  have hout' : (reportSet .wind s2).part ≠ .config := by
    rw [(keeps_reportSet _ _).part]; exact hout
  have hset : (reportSet .link (reportSet .wind s2)).holds.wind = true :=
    (hl.get .wind nofun nofun nofun).trans (get_reportSet_same .wind hout nofun nofun)
  have hsetl : (reportSet .link (reportSet .wind s2)).holds.link = true :=
    get_reportSet_same .link hout' nofun nofun
  have hother : ∀ src, src ≠ .wind → src ≠ .link → src ≠ .guard → src ≠ .halt →
      (reportSet .link (reportSet .wind s2)).holds.get src = false := by
    intro src h1 h2 h3 h4
    rw [hl.get src h3 h4 (by simpa using h2), hw.get src h3 h4 (by simpa using h1), hholds]
    cases src <;> rfl
  have howned : Owned none (reportSet .link (reportSet .wind s2)) := by
    refine ⟨fun src _ => ?_, ?_⟩
    · cases src with
      | storm =>
        have hclear := hother .storm nofun nofun nofun nofun
        exact hclear.trans (by rw [hl.stormLatch, hw.stormLatch, hholds]; rfl)
      | park =>
        have hclear := hother .park nofun nofun nofun nofun
        exact hclear.trans (by rw [hl.parkLatch, hw.parkLatch, hholds]; rfl)
      | wind =>
        refine ⟨fun _ => ?_, fun _ => hset⟩
        rw [hl.wind, hw.wind, hwind]
        nofun
      | link =>
        refine ⟨fun _ => ?_, fun _ => hsetl⟩
        rw [hl.trail, hw.trail, htrail]
        nofun
      | soft => trivial
      | guard => trivial
      | halt => trivial
    · rw [hl.trail, hw.trail, htrail]
      nofun
  have hs3 : Sound (reportSet .link (reportSet .wind s2)) :=
    sound_reportSet _ (sound_reportSet _ hsound)
  split
  · exact lawful_setStorm hs3 howned
  · exact ⟨hs3, howned⟩

theorem Resting.endsIn_start (h : Resting s) (offset : W16) :
    EndsIn Kept (execStart offset s) := by
  refine .portCommand (.inr h) ?_
  split
  · split
    · exact Kept.reply (.inr h) _ _
    · exact Kept.reply (.inl (h.lawful_startPart _)) _ _
  all_goals exact Kept.reply (.inr h) _ _

/-! ### The other commands -/

theorem Resting.endsIn_configure (h : Resting s) (r : ConfigWire) :
    EndsIn Kept (execConfigure r s) := by
  have hstored : ∀ c, Undisturbed s (applyConfig c s) := fun c => by
    unfold applyConfig
    dsimp only
    split <;> split <;> exact ⟨rfl, rfl, rfl, rfl, rfl, rfl, rfl, rfl, .inl rfl⟩
  refine .portCommand (.inr h) ?_
  split
  · exact (h.kept_of (hstored _)).reply _ _
  all_goals exact Kept.reply (.inr h) _ _

theorem Resting.endsIn_takeOutcomes (h : Resting s) (n : Byte) :
    EndsIn Kept (execTakeOutcomes n s) := by
  have htaken : Resting (takeRecords (takeCount n s) s) :=
    h.undisturbed ⟨rfl, rfl, rfl, rfl, rfl, rfl, rfl, rfl, .inl rfl⟩
  refine .portCommand (.inr h) (Kept.reply (.inr ?_) _ _)
  rw [htaken.silent.afterFall]
  split <;> exact htaken

theorem Resting.endsIn_stormLineEvent (h : Resting s) (high : Bool) :
    EndsIn Kept (execStormLineEvent high s) := by
  refine .next ?_
  split
  · exact .inr h
  · rw [h.silent.linesObserved]
    exact h.kept_of ⟨rfl, rfl, rfl, rfl, rfl, rfl, rfl, rfl, .inl rfl⟩

theorem Resting.endsIn_lsdAsserted (h : Resting s) : EndsIn Kept (execLsdAsserted s) := by
  refine .next ?_
  split
  · exact .inr h
  · rw [h.silent.trail]
    exact h.kept_of ⟨rfl, rfl, rfl, rfl, rfl, rfl, rfl, rfl, .inl rfl⟩

theorem Resting.endsIn_lsdDeasserted (h : Resting s) : EndsIn Kept (execLsdDeasserted s) := by
  refine .next ?_
  split
  · rw [h.silent.receives]
    exact h.kept_of ⟨rfl, rfl, rfl, rfl, rfl, rfl, rfl, rfl, .inl rfl⟩
  · exact .inr h

theorem takeFrame_of_empty {s : State} (h : s.link.buffer = []) : takeFrame s = s := by
  unfold takeFrame
  split
  · next hbuffer => cases h.symm.trans hbuffer
  · rfl

theorem Resting.endsIn_intakeCompletion (h : Resting s) : EndsIn Kept (execIntakeCompletion s) := by
  refine .next ?_
  split
  · next w hw =>
    split
    · have hbuffer : takeFrame (s.withIntake none) = s.withIntake none :=
        takeFrame_of_empty h.silent.buffer
      rw [h.silent.void w hw]
      dsimp only
      rw [if_pos rfl, hbuffer]
      exact h.kept_of ⟨rfl, rfl, rfl, rfl, rfl, rfl, rfl, rfl, .inr rfl⟩
    · exact .inr h
  · exact .inr h

theorem Resting.endsIn_geometryPoint (h : Resting s) : EndsIn Kept (execGeometryPoint s) := by
  refine .next ?_
  split
  · next w hw =>
    rw [h.silent.void w hw]
    rw [if_neg (by simp)]
    exact .inr h
  · exact .inr h

theorem Resting.endsIn_binBoundary (h : Resting s) : EndsIn Kept (execBinBoundary s) := by
  refine .next ?_
  split
  · refine h.kept_of ?_
    rw [if_pos h.part]
    exact ⟨rfl, rfl, rfl, rfl, rfl, rfl, rfl, rfl, .inl rfl⟩
  · exact .inr h

theorem Resting.endsIn_guardAfterStart (h : Resting s) : EndsIn Kept (execGuardAfterStart s) := by
  refine .next (.inr ?_)
  unfold guardRise
  rw [reportSet_of_config h.part, ite_self]
  exact h

/-- The command finds nothing to do. -/
theorem Resting.idles (h : Resting s) {o : Result} (ho : o = .next s) : EndsIn Kept o := by
  rw [ho]
  exact .next (.inr h)

/-- A port command that CONFIG refuses. -/
theorem Resting.refuses (h : Resting s) {t : State} (ht : t = refuse .wrongState s) :
    EndsIn Kept (portCommand s t) := by
  rw [ht]
  exact h.refused _

end

theorem endsIn_exec_resting (c : Instr) {s : State} (h : Resting s) : EndsIn Kept (exec c s) := by
  have silent := h.silent
  obtain ⟨hpart, htrail, hstage, hbuffer, ⟨hlisten, hcheck, hloss, hrefresh⟩, hstate, hpause, hqueue,
    ⟨hneighbours, hwindows⟩, hwind, -⟩ := silent
  have unchanged : ∀ {t : State}, Undisturbed s t → Kept t := h.kept_of
  cases c with
  | hardwareReset selLow => exact resting_reset selLow s
  | localTimeTick => exact .next (unchanged ⟨rfl, rfl, rfl, rfl, rfl, rfl, rfl, rfl, .inl rfl⟩)
  | configure r => exact h.endsIn_configure r
  | start offset => exact h.endsIn_start offset
  | stop => exact h.refuses (by rw [hpart])
  | wind direction speed => exact h.refuses (by rw [hpart])
  | submit tag cls target wf wd ef ed => exact h.refuses (by rw [hpart])
  | submitSweep tag cls step count pacing interval policy => exact h.refuses (by rw [hpart])
  | extend tag extension => exact h.refuses (by rw [hpart])
  | confirm => exact h.refuses (by rw [hpart])
  | cancel tag => exact h.refuses (by rw [hpart])
  | begun tag => exact h.refuses (by rw [hpart])
  | ended tag achieved => exact h.refuses (by rw [hpart])
  | hold => exact h.refuses (by rw [hpart])
  | release => exact h.refuses (by rw [hpart])
  | clearHold source => exact h.refuses (by rw [hpart])
  | resume => exact h.refuses (by rw [hpart])
  | status =>
    refine .portCommand (.inr h) (Kept.reply ?_ _ _)
    exact unchanged ⟨rfl, rfl, rfl, rfl, rfl, rfl, rfl, rfl, .inl rfl⟩
  | takeOutcomes n => exact h.endsIn_takeOutcomes n
  | readNeighbours first => exact endsIn_kept_reply (.inr h) (.inr h) _ _
  | readWindows first => exact endsIn_kept_reply (.inr h) (.inr h) _ _
  | clearFaults kinds =>
    refine .portCommand (.inr h) (Kept.reply ?_ _ _)
    exact unchanged ⟨rfl, rfl, rfl, rfl, rfl, rfl, rfl, rfl, .inl rfl⟩
  | clearLost =>
    refine .portCommand (.inr h) (Kept.reply ?_ _ _)
    exact unchanged ⟨rfl, rfl, rfl, rfl, rfl, rfl, rfl, rfl, .inl rfl⟩
  | unknownCode code => exact endsIn_kept_reply (.inr h) (.inr h) _ _
  | stormLineEvent high => exact h.endsIn_stormLineEvent high
  | parkFallingEdge =>
    exact h.idles (by simp [execParkFallingEdge, h.silent.linesObserved])
  | lsdDeasserted => exact h.endsIn_lsdDeasserted
  | lsdAsserted => exact h.endsIn_lsdAsserted
  | frameReceived rx => exact h.idles (by simp [execFrameReceived, h.silent.receives])
  | laneActivity =>
    refine .next (unchanged ?_)
    rw [hstage]
    exact ⟨rfl, rfl, rfl, rfl, rfl, rfl, rfl, rfl, .inl rfl⟩
  | laneQuiet =>
    refine .next (unchanged ?_)
    rw [hstage]
    exact ⟨rfl, rfl, rfl, rfl, rfl, rfl, rfl, rfl, .inl rfl⟩
  | gapEnd => exact h.idles (by simp [execGapEnd, hstage])
  | endOfTransmission => exact h.idles (by simp [execEndOfTransmission, hstage])
  | echoDeadline => exact h.idles (by simp [execEchoDeadline, hstage])
  | backoffEnd => exact h.idles (by simp [execBackoffEnd, hstage])
  | listenTimerExpiry => exact h.idles (by simp [execListenTimerExpiry, hlisten, due_none])
  | checkPeriodExpiry => exact h.idles (by simp [execCheckPeriodExpiry, hcheck, due_none])
  | signalLossTimerExpiry => exact h.idles (by simp [execSignalLossTimerExpiry, hloss, due_none])
  | refreshTimerExpiry => exact h.idles (by simp [execRefreshTimerExpiry, hrefresh, due_none])
  | geometryPoint => exact h.endsIn_geometryPoint
  | intakeCompletion => exact h.endsIn_intakeCompletion
  | entryExpiry station => exact h.idles (by simp [execEntryExpiry, hneighbours])
  | windowClose station move => exact h.idles (by simp [execWindowClose, hwindows])
  | binBoundary => exact h.endsIn_binBoundary
  | windStalenessExpiry =>
    exact h.idles (by simp [execWindStalenessExpiry, hwind, WindRecord.clear, due_none])
  | waiveTime tag => exact h.idles (by simp [execWaiveTime, hqueue, findTag])
  | expiryTime tag => exact h.idles (by simp [execExpiryTime, hqueue, findTag])
  | paceDeadline tag => exact h.idles (by simp [execPaceDeadline, hqueue, findTag])
  | holdOffExpiry => exact h.idles (by simp [execHoldOffExpiry, hstate])
  | yieldPauseExpiry => exact h.idles (by simp [execYieldPauseExpiry, hpause, due_none])
  | startTimeoutExpiry => exact h.idles (by simp [execStartTimeoutExpiry, hstate])
  | overrunExpiry => exact h.idles (by simp [execOverrunExpiry, hstate])
  | settleExpiry => exact h.idles (by simp [execSettleExpiry, hstate])
  | guardAfterStart => exact h.endsIn_guardAfterStart
  | transactionEnd => exact .next (unchanged ⟨rfl, rfl, rfl, rfl, rfl, rfl, rfl, rfl, .inl rfl⟩)

end Sys2Proof.Machine

section
open Sys2Proof Sys2Proof.Machine

/-- Settles O59: a lawful state is a sound engine outside CONFIG or the part at rest in it; every command
takes either to one of the two. -/
theorem engineLawfulKept : Obligations.EngineLawfulKept := by
  unfold Obligations.EngineLawfulKept
  intro s t hstep hs
  unfold step at hstep
  split at hstep
  · cases hstep
    exact hs
  · next c rest _ =>
    have hkept : EndsIn Kept (exec c (s.withPending rest)) := by
      rcases lawful_or_resting hs with h | h
      · exact endsIn_exec_lawful c (h.congr rfl rfl rfl rfl rfl rfl)
      · exact endsIn_exec_resting c (h.undisturbed ⟨rfl, rfl, rfl, rfl, rfl, rfl, rfl, rfl, .inl rfl⟩)
    exact (kept_iff t).1 (hkept t hstep)

/-- Settles O60: at reset the ranges, the orders and rest hold by the reset values. -/
theorem invariantsHoldAtReset : Obligations.InvariantsHoldAtReset := by
  unfold Obligations.InvariantsHoldAtReset
  obtain ⟨hcap, hconfig, hoffset, hwind, hlost⟩ := inRanges_reset
  obtain ⟨htable, hwindows, hmap⟩ := inOrder_reset
  refine ⟨hcap, hconfig, hoffset, hwind, hlost, htable, hwindows, hmap, ?_⟩
  refine engineLawful_of_resting ⟨rfl, fun _ => ?_⟩
  exact ⟨rfl, rfl, rfl, rfl, rfl, rfl, rfl, rfl, rfl, rfl, rfl, rfl, rfl, rfl, rfl, rfl, rfl, rfl, rfl,
    rfl, rfl, rfl, rfl, rfl, nofun⟩

end
end

section
/-! SUPPORT. The way to a normal grant: what no operation does but the commit test, and what the commit
test has found when it grants (R145, R147, R148). -/

namespace Sys2Proof.Machine

/-! ### Steps without a commit, and the commit -/

/-- A normal grant stands, waiting for its BEGUN (R147). -/
abbrev NormalGrant (s : State) : Prop := s.engine.state = .granted ∧ s.engine.work = .request

/-- An intent that only its evaluation point keeps from the commit test (R141). -/
abbrev RipeIntent (s : State) : Prop :=
  s.engine.state = .intent ∧ s.engine.echo = true ∧ s.engine.expired = true

/-- Between `s` and `t` no commit is made: no normal grant comes to stand, and a ripe intent was one
before. What a grant is formed from is as before. -/
structure Uncommitted (s t : State) : Prop where
  granted : NormalGrant t → NormalGrant s
  ripe : RipeIntent t → RipeIntent s
  move : t.builder.move = s.builder.move
  offset : t.engine.offset = s.engine.offset
  cfg : t.cfg = s.cfg

/-- From `s` a commit has led to `t`. -/
structure Commit (s t : State) : Prop where
  ripe : RipeIntent s
  granted : NormalGrant t
  free : t.holds.held = false
  front : ∃ r rest, t.queue = r :: rest ∧ r.position = .granted ∧ quietMet t r = true ∧
    activeCount t.neighbours +
      outrankingCountOf r.cls t.builder.claimAge t.cfg.station t.neighbours < t.cfg.budget ∧
    t.engine.grant = some ⟨.request, r.tag, r.cls, s.builder.move + 1, s.engine.offset,
      requestTarget s.cfg s.engine.offset r,
      moveDuration s.cfg (requestTarget s.cfg s.engine.offset r - s.engine.offset)⟩

/-- Nothing but a commit, if anything, brings a normal grant. -/
def AtMostCommits (s t : State) : Prop := Uncommitted s t ∨ Commit s t

theorem Uncommitted.refl (s : State) : Uncommitted s s := ⟨id, id, rfl, rfl, rfl⟩

theorem Uncommitted.trans {s t u : State} (h : Uncommitted s t) (k : Uncommitted t u) :
    Uncommitted s u :=
  ⟨fun hu => h.granted (k.granted hu), fun hu => h.ripe (k.ripe hu), k.move.trans h.move,
    k.offset.trans h.offset, k.cfg.trans h.cfg⟩

/-- A change that the engine and the builder's move number are left out of. -/
theorem Uncommitted.of_engine {s t : State} (he : t.engine = s.engine)
    (hm : t.builder.move = s.builder.move) (hc : t.cfg = s.cfg) : Uncommitted s t := by
  refine ⟨fun h => ?_, fun h => ?_, hm, by rw [he], hc⟩
  · unfold NormalGrant at h ⊢
    rwa [← he]
  · unfold RipeIntent at h ⊢
    rwa [← he]

/-- A change that leaves the engine in neither GRANTED nor INTENT. -/
theorem Uncommitted.of_state {s t : State} {st : EngineState} (hs : t.engine.state = st)
    (h1 : st ≠ .granted) (h2 : st ≠ .intent) (hm : t.builder.move = s.builder.move)
    (ho : t.engine.offset = s.engine.offset) (hc : t.cfg = s.cfg) : Uncommitted s t :=
  ⟨fun h => absurd (hs.symm.trans h.1) h1, fun h => absurd (hs.symm.trans h.1) h2, hm, ho, hc⟩

theorem Commit.after {s t u : State} (h : Uncommitted s t) (k : Commit t u) : Commit s u := by
  obtain ⟨ripe, granted, free, front⟩ := k
  refine ⟨h.ripe ripe, granted, free, ?_⟩
  rw [← h.move, ← h.offset, ← h.cfg]
  exact front

theorem AtMostCommits.after {s t u : State} (h : Uncommitted s t) (k : AtMostCommits t u) :
    AtMostCommits s u := k.imp h.trans (Commit.after h)

/-- A change of what a commit does not speak of. -/
theorem Commit.before {s t u : State} (h : Commit s t) (he : u.engine = t.engine)
    (hq : u.queue = t.queue) (hh : u.holds = t.holds) (hb : u.builder = t.builder)
    (hn : u.neighbours = t.neighbours) (hc : u.cfg = t.cfg) (hnow : u.now = t.now)
    (hm : u.quietMap = t.quietMap) : Commit s u := by
  obtain ⟨ripe, granted, free, r, rest, front, position, quiet, budget, grant⟩ := h
  refine ⟨ripe, by unfold NormalGrant; rw [he]; exact granted, by rw [hh]; exact free, r, rest, hq.trans front, position,
    ?_, by rw [hn, hb, hc]; exact budget, by rw [he]; exact grant⟩
  unfold quietMet at quiet ⊢
  rw [hnow, hc, he, hm]
  exact quiet

theorem AtMostCommits.before {s t u : State} (h : AtMostCommits s t) (he : u.engine = t.engine)
    (hq : u.queue = t.queue) (hh : u.holds = t.holds) (hb : u.builder = t.builder)
    (hn : u.neighbours = t.neighbours) (hc : u.cfg = t.cfg) (hnow : u.now = t.now)
    (hm : u.quietMap = t.quietMap) : AtMostCommits s u :=
  h.imp (fun h => h.trans (.of_engine he (by rw [hb]) hc)) fun h =>
    h.before he hq hh hb hn hc hnow hm

/-! ### Operations without a commit -/

theorem uncommitted_announce (s : State) : Uncommitted s (announce s) := .of_engine rfl rfl rfl

theorem uncommitted_withdraw (s : State) : Uncommitted s (withdraw s) :=
  .of_state (st := .waiting) rfl nofun nofun rfl rfl rfl

theorem uncommitted_lapse (s : State) : Uncommitted s (lapse s) :=
  .of_state (st := .waiting) rfl nofun nofun rfl rfl rfl

theorem uncommitted_heldEffect (s : State) : Uncommitted s (heldEffect s) := by
  unfold heldEffect
  split
  · exact uncommitted_withdraw s
  · exact uncommitted_lapse s
  · exact Uncommitted.refl s

theorem uncommitted_reportSet (src : HoldSource) (s : State) :
    Uncommitted s (reportSet src s) := by
  unfold reportSet
  split
  · exact Uncommitted.refl s
  · exact Uncommitted.trans (t := latchHold (s.modHolds fun h => h.put src true))
      (.of_engine rfl rfl rfl) (uncommitted_heldEffect _)

theorem uncommitted_raiseFault (k : FaultKind) (ctx : FaultContext) (s : State) :
    Uncommitted s (raiseFault k ctx s) := by
  unfold raiseFault
  split
  · exact Uncommitted.refl s
  · have hrecord : Uncommitted s (s.modRecorder fun f =>
        { status := f.status ||| kindBit k
          first := if f.status = 0 then some ⟨k, s.now, ctx⟩ else f.first }) :=
      .of_engine rfl rfl rfl
    dsimp only
    split
    · exact hrecord.trans (uncommitted_reportSet _ _)
    · exact hrecord

theorem uncommitted_guardRise (s : State) : Uncommitted s (guardRise s) := by
  unfold guardRise
  split
  · exact uncommitted_reportSet _ s
  · exact Uncommitted.refl s

theorem uncommitted_modLog (s : State) (f : OutcomeLog → OutcomeLog) :
    Uncommitted s (s.modLog f) := .of_engine rfl rfl rfl

theorem uncommitted_modLink (s : State) (f : Link → Link) : Uncommitted s (s.modLink f) :=
  .of_engine rfl rfl rfl

theorem uncommitted_modQueue (s : State) (f : List Request → List Request) :
    Uncommitted s (s.modQueue f) := .of_engine rfl rfl rfl

theorem uncommitted_offer (r : OutcomeRecord) (s : State) : Uncommitted s (offer r s) := by
  unfold offer
  split
  · exact (uncommitted_raiseFault _ _ s).trans (uncommitted_guardRise _)
  · split
    · exact ((uncommitted_modLog s _).trans (uncommitted_raiseFault _ _ _)).trans
        (uncommitted_guardRise _)
    · exact (uncommitted_modLog s _).trans (uncommitted_guardRise _)

theorem uncommitted_completeRequest (r : Request) (o : OutcomeCode) (s : State) :
    Uncommitted s (completeRequest r o s) :=
  (uncommitted_modQueue s _).trans (uncommitted_offer _ _)

theorem uncommitted_takeHead (s : State) : Uncommitted s (takeHead s) := by
  unfold takeHead
  split
  · exact .of_state (st := .idle) rfl nofun nofun rfl rfl rfl
  · exact .of_state (st := .waiting) rfl nofun nofun rfl rfl rfl

/-- The entry to INTENT clears the marker and the flag (R139). -/
theorem uncommitted_enterIntent (s : State) : Uncommitted s (enterIntent s) :=
  ⟨fun h => (nomatch h.1), fun h => (nomatch h.2.1), rfl, rfl, rfl⟩

theorem uncommitted_evaluateN (n : Nat) (s : State) : Uncommitted s (evaluateN n s) := by
  induction n generalizing s with
  | zero => exact Uncommitted.refl s
  | succ n ih =>
    unfold evaluateN
    split
    · split
      · exact Uncommitted.refl s
      · exact ((uncommitted_completeRequest _ _ s).trans (uncommitted_takeHead _)).trans (ih _)
      · exact uncommitted_enterIntent s
    · exact Uncommitted.refl s

theorem uncommitted_evaluate (s : State) : Uncommitted s (evaluate s) := uncommitted_evaluateN _ s

theorem uncommitted_takeNext (s : State) : Uncommitted s (takeNext s) :=
  (uncommitted_takeHead s).trans (uncommitted_evaluate _)

theorem uncommitted_yieldIntent (s : State) : Uncommitted s (yieldIntent s) := by
  have hyielded : Uncommitted s (announce <|
      (s.modQueue (modFront fun r =>
        { r with position := .waiting, yields := r.yields + 1 })).modEngine fun e =>
          { e with
            state := .waiting
            holdOff := none
            expired := false
            echo := false
            yieldPause := some (later s.now s.cfg.holdOff) }) :=
    .of_state (st := .waiting) rfl nofun nofun rfl rfl rfl
  unfold yieldIntent
  dsimp only
  split
  · exact hyielded
  · split
    · exact (hyielded.trans (uncommitted_completeRequest _ _ _)).trans (uncommitted_takeNext _)
    · exact hyielded

/-! ### The commit test -/

theorem requestTarget_granted (c : Config) (now : Nat) (offset : Int) (r : Request) :
    requestTarget c offset (r.granted now) = requestTarget c offset r := by
  unfold requestTarget Request.granted Request.modMove
  cases r.job <;> rfl

theorem waived_granted (now t : Nat) (r : Request) :
    (r.granted now).waived t = r.waived t := by
  unfold Request.waived Request.granted Request.modMove
  cases r.job <;> rfl

theorem Request.granted_cls (now : Nat) (r : Request) : (r.granted now).cls = r.cls := by
  unfold Request.granted Request.modMove
  split <;> rfl

/-- What the commit test has found when it grants. -/
theorem commit_enterGranted {s : State} {r : Request} {rest : List Request} (h : RipeIntent s)
    (hheld : s.holds.held = false) (hq : s.queue = r :: rest) (hquiet : headQuiet s = true)
    (hbudget : budgetSpent s = false) : Commit s (enterGranted s) := by
  rw [budgetSpent_iff h.1 hq] at hbudget
  rw [headQuiet_cons hq] at hquiet
  have ht : enterGranted s = announce (((s.modQueue fun _ => r.granted s.now :: rest).modBuilder
      fun b => { b with
        move := b.move + 1
        refs := { b.refs with
          startTimeout := some (later s.now (startTimeoutOf s.cfg.startTimeoutCode)) } }).modEngine
      fun e => { e with
        state := .granted, work := .request, grant := some (grantOf r s), holdOff := none
        expired := false, echo := false
        startTimeout := some (later s.now (startTimeoutOf s.cfg.startTimeoutCode)) }) := by
    unfold enterGranted
    rw [hq]
  rw [ht]
  refine ⟨h, ⟨rfl, rfl⟩, hheld, r.granted s.now, rest, rfl, r.granted_position s.now, ?_, ?_, ?_⟩
  · unfold quietMet at hquiet ⊢
    rw [requestTarget_granted, waived_granted]
    exact hquiet
  · rw [r.granted_cls]
    exact not_le.1 (of_decide_eq_false hbudget)
  · rw [requestTarget_granted, r.granted_tag, r.granted_cls]
    rfl

theorem atMostCommits_enterGranted {s : State} (h : RipeIntent s) (hheld : s.holds.held = false)
    (hquiet : headQuiet s = true) (hbudget : budgetSpent s = false) :
    AtMostCommits s (enterGranted s) := by
  cases hq : s.queue with
  | nil =>
    refine .inl ?_
    unfold enterGranted
    rw [hq]
    exact Uncommitted.refl s
  | cons r rest => exact .inr (commit_enterGranted h hheld hq hquiet hbudget)

theorem atMostCommits_commitTest {s : State} (h : RipeIntent s) : AtMostCommits s (commitTest s) := by
  have hwithdrawn := (uncommitted_withdraw s).trans (uncommitted_evaluate _)
  unfold commitTest
  split_ifs with hheld hquiet hbudget
  · exact .inl hwithdrawn
  · exact .inl hwithdrawn
  · exact .inl (uncommitted_yieldIntent s)
  · exact atMostCommits_enterGranted h (by simpa using hheld) (by simpa using hquiet)
      (by simpa using hbudget)

theorem atMostCommits_evalPoint (atIntake : Bool) (s : State) :
    AtMostCommits s (evalPoint atIntake s) := by
  have hwithdrawn := (uncommitted_withdraw s).trans (uncommitted_evaluate _)
  unfold evalPoint
  split
  · exact .inl (uncommitted_evaluate s)
  · next hs =>
    unfold intentTests
    split_ifs with hheld hquiet hyield hripe
    · exact .inl hwithdrawn
    · exact .inl hwithdrawn
    · exact .inl (uncommitted_yieldIntent s)
    · obtain ⟨hexpired, hecho⟩ := Bool.and_eq_true_iff.1 hripe
      exact atMostCommits_commitTest ⟨hs, hecho, hexpired⟩
    · exact .inl (Uncommitted.refl s)
  all_goals exact .inl (Uncommitted.refl s)

theorem atMostCommits_reportClear (src : HoldSource) (s : State) :
    AtMostCommits s (reportClear src s) := by
  have hcleared : Uncommitted s (latchHold (s.modHolds fun h => h.put src false)) :=
    .of_engine rfl rfl rfl
  unfold reportClear
  split
  · exact .inl (Uncommitted.refl s)
  · dsimp only
    split
    · exact .inl (hcleared.trans (uncommitted_heldEffect _))
    · exact .after hcleared (atMostCommits_evalPoint _ _)

theorem atMostCommits_reportGuard (s : State) : AtMostCommits s (reportGuard s) := by
  unfold reportGuard
  split_ifs
  · exact .inl (uncommitted_reportSet _ s)
  · exact atMostCommits_reportClear _ s
  · exact .inl (Uncommitted.refl s)

/-! ### Completions -/

theorem uncommitted_completeHead (r : Request) (o : OutcomeCode) (s : State) :
    Uncommitted s (takeNext (completeRequest r o s)) :=
  (uncommitted_completeRequest r o s).trans (uncommitted_takeNext _)

/-- A work given up or ended alone brings no grant of its own. -/
theorem uncommitted_dropWork (s : State) :
    Uncommitted s (s.modEngine fun e => { e with work := .none }) :=
  ⟨fun h => (nomatch h.2), id, rfl, rfl, rfl⟩

theorem uncommitted_complete_settling (r : Request) (o : OutcomeCode) (s : State) :
    Uncommitted s (completeRequest r o (s.modEngine fun e => { e with work := .none })) :=
  (uncommitted_dropWork s).trans (uncommitted_completeRequest _ _ _)

theorem uncommitted_cancelRequest (r : Request) (s : State) :
    Uncommitted s (cancelRequest r s) := by
  unfold cancelRequest
  split
  · exact uncommitted_completeRequest _ _ s
  · exact uncommitted_completeHead _ _ s
  · exact (uncommitted_withdraw s).trans (uncommitted_completeHead _ _ _)
  · exact (uncommitted_lapse s).trans (uncommitted_completeHead _ _ _)
  · exact uncommitted_modQueue s _
  · exact uncommitted_complete_settling _ _ s

/-- A completion that the guard level defers (R123, R131). -/
theorem uncommitted_deferOrComplete (r : Request) (o : OutcomeCode)
    (f : List Request → List Request) (s : State) :
    Uncommitted s (if guardLevel s then s.modQueue f
      else if r.position = .waiting then takeNext (completeRequest r o s)
      else completeRequest r o s) := by
  split_ifs
  · exact uncommitted_modQueue s f
  · exact uncommitted_completeHead r o s
  · exact uncommitted_completeRequest r o s

theorem uncommitted_expireRequest (r : Request) (s : State) :
    Uncommitted s (expireRequest r s) := by
  unfold expireRequest
  split
  · exact (uncommitted_withdraw s).trans (uncommitted_completeHead _ _ _)
  · exact uncommitted_deferOrComplete r _ _ s
  · exact uncommitted_deferOrComplete r _ _ s
  all_goals exact Uncommitted.refl s

theorem uncommitted_underrunEnd (r : Request) (s : State) :
    Uncommitted s (underrunEnd r s) := by
  unfold underrunEnd
  split
  · exact uncommitted_complete_settling _ _ s
  · exact uncommitted_deferOrComplete r _ _ s
  · exact uncommitted_deferOrComplete r _ _ s
  all_goals exact Uncommitted.refl s

theorem atMostCommits_stepBecomesEligible (r : Request) (s : State) :
    AtMostCommits s (stepBecomesEligible r s) := by
  unfold stepBecomesEligible
  split
  · exact atMostCommits_evalPoint _ s
  · exact .inl (Uncommitted.refl s)

theorem atMostCommits_judgePace (r : Request) (w : SweepJob) (s : State) :
    AtMostCommits s (judgePace r w s) := by
  have hlatch : ∀ t, Uncommitted t (latchUnderrun t) := fun _ => .of_engine rfl rfl rfl
  unfold judgePace
  dsimp only
  split
  · exact .inl (uncommitted_modQueue s _)
  · split
    · exact .after (uncommitted_modQueue s _) (atMostCommits_stepBecomesEligible _ _)
    · split
      · exact .after ((uncommitted_modQueue s _).trans (hlatch _))
          (atMostCommits_stepBecomesEligible _ _)
      · exact .inl ((uncommitted_modQueue s _).trans (hlatch _))
      · exact .inl ((uncommitted_modQueue s _).trans (uncommitted_underrunEnd _ _))

theorem uncommitted_completeDeferred (n : Nat) (s : State) :
    Uncommitted s (completeDeferred n s) := by
  induction n generalizing s with
  | zero => exact Uncommitted.refl s
  | succ n ih =>
    unfold completeDeferred
    split
    · exact Uncommitted.refl s
    · split
      · exact Uncommitted.refl s
      · refine Uncommitted.trans ?_ (ih _)
        split
        · exact uncommitted_completeHead _ _ s
        · exact uncommitted_completeRequest _ _ s

/-- After a commit an evaluation point finds nothing to do. -/
theorem AtMostCommits.evalPoint {s t : State} (h : AtMostCommits s t) (atIntake : Bool) :
    AtMostCommits s (evalPoint atIntake t) := by
  rcases h with h | h
  · exact .after h (atMostCommits_evalPoint _ _)
  · have hs := h.granted.1
    rw [evalPoint_of_other atIntake (by rw [hs]; nofun) (by rw [hs]; nofun)]
    exact .inr h

theorem atMostCommits_afterFall (s : State) : AtMostCommits s (afterFall s) := by
  have hserved := AtMostCommits.after (uncommitted_completeDeferred s.queue.length s)
    (atMostCommits_reportGuard _)
  unfold afterFall
  dsimp only
  split
  · split
    · exact hserved.evalPoint false
    · exact hserved
  · split
    · exact atMostCommits_evalPoint _ s
    · exact .inl (Uncommitted.refl s)

theorem atMostCommits_acceptRequest (r : Request) (s : State) :
    AtMostCommits s (acceptRequest r s) := by
  have hplaced := uncommitted_modQueue s (placeRequest r)
  unfold acceptRequest
  refine .after ?_ (atMostCommits_evalPoint _ _)
  split
  · exact hplaced.trans (uncommitted_takeHead _)
  · exact hplaced.trans (uncommitted_takeHead _)
  all_goals exact hplaced

/-! ### Operations that end without a normal grant -/

theorem not_normalGrant_of_state {s : State} {st : EngineState} (hs : s.engine.state = st)
    (h : st ≠ .granted) : ¬NormalGrant s := fun hn => h (hs.symm.trans hn.1)

theorem not_normalGrant_enterConfig (s : State) : ¬NormalGrant (enterConfig s) :=
  not_normalGrant_of_state (st := .idle) rfl nofun

theorem not_normalGrant_requestFinal {s : State} (h : ¬NormalGrant s) :
    ¬NormalGrant (requestFinal s) := by
  unfold requestFinal
  dsimp only
  split
  · split <;> exact h
  · exact not_normalGrant_enterConfig _

theorem not_normalGrant_checkStopWork {s : State} (h : ¬NormalGrant s) :
    ¬NormalGrant (checkStopWork s) := by
  unfold checkStopWork
  split
  · exact not_normalGrant_requestFinal h
  · exact h

theorem not_normalGrant_enterGrantedPark (s : State) : ¬NormalGrant (enterGrantedPark s) := by
  unfold NormalGrant
  rw [enterGrantedPark_engine]
  nofun

theorem not_normalGrant_takeHead (s : State) : ¬NormalGrant (takeHead s) := by
  unfold takeHead
  split
  · exact not_normalGrant_of_state (st := .idle) rfl nofun
  · exact not_normalGrant_of_state (st := .waiting) rfl nofun

theorem not_normalGrant_endSettling (s : State) : ¬NormalGrant (endSettling s) := fun h =>
  not_normalGrant_takeHead _
    (((uncommitted_announce _).trans (uncommitted_evaluate _)).granted h)

theorem not_normalGrant_afterEnded (s : State) : ¬NormalGrant (afterEnded s) := by
  unfold afterEnded
  split_ifs
  · exact not_normalGrant_of_state (st := .idle) rfl nofun
  · exact not_normalGrant_endSettling s
  · exact not_normalGrant_of_state (st := .settling) rfl nofun

theorem not_normalGrant_endMove (achieved : Int) (g : Grant) (s : State) :
    ¬NormalGrant (endMove achieved g s) := by
  have hpark : ∀ t, ¬NormalGrant (parkAtEnded t) := fun t => by
    unfold parkAtEnded
    split
    · exact not_normalGrant_afterEnded _
    · exact not_normalGrant_enterGrantedPark t
  have hrequest : ∀ t : State,
      ¬NormalGrant (if t.holds.parkLatch then parkAtEnded t else afterEnded t) := fun t => by
    split
    · exact hpark t
    · exact not_normalGrant_afterEnded t
  rw [endMove_eq]
  refine not_normalGrant_checkStopWork ?_
  unfold endedWork
  cases s.engine.work with
  | park => exact not_normalGrant_afterEnded _
  | request => exact hrequest _
  | none => exact hrequest _

theorem not_normalGrant_enterMoving (g : Grant) (s : State) : ¬NormalGrant (enterMoving g s) :=
  not_normalGrant_of_state (st := .moving) rfl nofun

theorem not_normalGrant_stopEngine (s : State) : ¬NormalGrant (stopEngine s) := by
  unfold stopEngine
  dsimp only
  split
  · next hs => exact fun h => by simp [NormalGrant, hs] at h
  · next hs hw => exact fun h => by simp [NormalGrant, hs, hw] at h
  all_goals exact fun h => nomatch h.1

theorem not_normalGrant_servePark {s : State} (h : ¬NormalGrant s) :
    ¬NormalGrant (servePark s) := by
  unfold servePark
  split
  · exact fun hn => h ((uncommitted_offer _ s).granted hn)
  · dsimp only
    split
    · next hs => exact not_normalGrant_of_state hs nofun
    all_goals exact not_normalGrant_enterGrantedPark _

theorem not_normalGrant_startPart {s : State} (offset : Int) (h : ¬NormalGrant s) :
    ¬NormalGrant (startPart offset s) := by
  have hset : ∀ (src : HoldSource) (t : State), ¬NormalGrant t → ¬NormalGrant (reportSet src t) :=
    fun src t ht hn => ht ((uncommitted_reportSet src t).granted hn)
  unfold startPart
  dsimp only
  generalize hs2 : State.modLink (State.modBuilder _ _) _ = s2
  have h2 : ¬NormalGrant s2 := by rw [← hs2]; exact h
  have h3 := hset .link _ (hset .wind s2 h2)
  split
  · exact hset .storm _ h3
  · exact h3

end Sys2Proof.Machine
end

section
/-! SUPPORT. The commit invariant, command by command (R145). -/

namespace Sys2Proof.Machine

/-! ### What a command other than the hold-off expiry and a frame can do -/

/-- A command ends without a normal grant, or by at most a commit. -/
def Goes (s t : State) : Prop := ¬NormalGrant t ∨ AtMostCommits s t

theorem Goes.refl (s : State) : Goes s s := .inr (.inl (Uncommitted.refl s))

theorem Uncommitted.goes {s t : State} (h : Uncommitted s t) : Goes s t := .inr (.inl h)

theorem AtMostCommits.goes {s t : State} (h : AtMostCommits s t) : Goes s t := .inr h

theorem Uncommitted.not_normalGrant {s t : State} (k : Uncommitted s t) (h : ¬NormalGrant s) :
    ¬NormalGrant t := fun ht => h (k.granted ht)

theorem AtMostCommits.modLink {s t : State} (h : AtMostCommits s t) (f : Link → Link) :
    AtMostCommits s (t.modLink f) := h.before rfl rfl rfl rfl rfl rfl rfl rfl

theorem AtMostCommits.withIntake {s t : State} (h : AtMostCommits s t) (w : Option InWork) :
    AtMostCommits s (t.withIntake w) := h.before rfl rfl rfl rfl rfl rfl rfl rfl

theorem Goes.reply {s t : State} (h : Goes s t) (a : Answer) (bytes : List Byte) :
    Goes s (reply a bytes t) :=
  h.imp id fun h => h.before rfl rfl rfl rfl rfl rfl rfl rfl

theorem goes_refuse (s : State) (a : Answer) : Goes s (refuse a s) := (Goes.refl s).reply a []

section
variable {s : State}

theorem goes_submission {r : Request} : Goes s (answerOk (acceptRequest r s)) :=
  (atMostCommits_acceptRequest r s).goes.reply _ _

theorem endsIn_goes_submit (tag : W16) (cls : Byte) (target : W16) (wf : Byte) (wd : W16) (ef : Byte)
    (ed : W16) : EndsIn (Goes s) (execSubmit tag cls target wf wd ef ed s) := by
  refine .portCommand (.refl s) ?_
  split
  · exact goes_refuse s _
  · exact goes_refuse s _
  · split
    · exact goes_refuse s _
    · split
      · exact goes_refuse s _
      · split_ifs
        · exact goes_refuse s _
        · exact goes_refuse s _
        · exact goes_submission

theorem endsIn_goes_submitSweep (tag : W16) (cls : Byte) (step count : W16) (pacing : Byte)
    (interval : W16) (policy : Byte) :
    EndsIn (Goes s) (execSubmitSweep tag cls step count pacing interval policy s) := by
  refine .portCommand (.refl s) ?_
  split
  · exact goes_refuse s _
  · exact goes_refuse s _
  · split
    · exact goes_refuse s _
    · split
      · exact goes_refuse s _
      · split
        · exact goes_refuse s _
        · split
          · exact goes_refuse s _
          · split_ifs
            · exact goes_refuse s _
            · exact goes_refuse s _
            · exact goes_submission

theorem endsIn_goes_extend (tag extension : W16) : EndsIn (Goes s) (execExtend tag extension s) := by
  refine .portCommand (.refl s) ?_
  split
  · exact goes_refuse s _
  · exact goes_refuse s _
  · split
    · exact goes_refuse s _
    · split
      · exact goes_refuse s _
      · split_ifs
        · exact goes_refuse s _
        · exact goes_refuse s _
        · exact (uncommitted_modQueue s _).goes.reply _ _

theorem endsIn_goes_confirm : EndsIn (Goes s) (execConfirm s) := by
  refine .portCommand (.refl s) ?_
  split
  · exact goes_refuse s _
  · exact goes_refuse s _
  · split
    · exact goes_refuse s _
    · split
      · exact goes_refuse s _
      · split
        · exact goes_refuse s _
        · have hflag := uncommitted_modQueue s
            (modFront (Request.modSweep fun v => { v with confirm := true }))
          refine Goes.reply ?_ _ _
          split
          · exact hflag.goes
          · exact (AtMostCommits.after hflag (atMostCommits_evalPoint _ _)).goes

theorem endsIn_goes_cancel (tag : W16) : EndsIn (Goes s) (execCancel tag s) := by
  have body : Goes s (match findTag tag s.queue with
      | none => refuse .noSuchTag s
      | some r =>
        if r.position = .moving ∧ r.isSweep = false then refuse .inMotion s
        else if guardLevel s then refuse .logFull s
        else answerOk (cancelRequest r s)) := by
    split
    · exact goes_refuse s _
    · split_ifs
      · exact goes_refuse s _
      · exact goes_refuse s _
      · exact (uncommitted_cancelRequest _ s).goes.reply _ _
  refine .portCommand (.refl s) ?_
  split
  · exact goes_refuse s _
  · exact body
  · exact body

theorem endsIn_goes_begun (tag : W16) : EndsIn (Goes s) (execBegun tag s) := by
  have hmoving : ∀ g, Goes s (enterMoving g s) := fun g => .inl (not_normalGrant_enterMoving g s)
  refine .portCommand (.refl s) ?_
  split
  · exact goes_refuse s _
  all_goals
    split
    · split_ifs
      · exact (hmoving _).reply _ _
      · exact goes_refuse s _
      · exact goes_refuse s _
    · split_ifs
      · exact goes_refuse s _
      · exact goes_refuse s _

theorem endsIn_goes_ended (tag achieved : W16) : EndsIn (Goes s) (execEnded tag achieved s) := by
  have hmoved : ∀ g, Goes s (endMove (clampOffset achieved.toInt) g s) :=
    fun g => .inl (not_normalGrant_endMove _ g s)
  refine .portCommand (.refl s) ?_
  split
  · exact goes_refuse s _
  all_goals
    split
    · split
      · exact (hmoved _).reply _ _
      · exact goes_refuse s _
    · exact goes_refuse s _

/-- A command that CONFIG refuses and that is otherwise answered OK. -/
theorem endsIn_goes_ok {t : State} (h : Goes s t) (p : PartState) :
    EndsIn (Goes s) (portCommand s (match p with
      | .config => refuse .wrongState s
      | .running | .stopping => answerOk t)) := by
  refine .portCommand (.refl s) ?_
  split
  · exact goes_refuse s _
  all_goals exact h.reply _ _

theorem endsIn_goes_clearHold (source : Byte) : EndsIn (Goes s) (execClearHold source s) := by
  have hcleared : Goes s (clearStorm s) := by
    unfold clearStorm
    split
    · exact Goes.refl s
    · have hlatch : Uncommitted s (s.modHolds fun h => { h with stormLatch := false }) :=
        .of_engine rfl rfl rfl
      exact (AtMostCommits.after hlatch (atMostCommits_reportClear _ _)).goes
  refine .portCommand (.refl s) ?_
  split
  · exact goes_refuse s _
  all_goals
    split
    · exact hcleared.reply _ _
    · exact goes_refuse s _

theorem endsIn_goes_resume : EndsIn (Goes s) (execResume s) := by
  refine .portCommand (.refl s) ?_
  split
  · exact goes_refuse s _
  all_goals
    split
    · exact goes_refuse s _
    · exact (atMostCommits_reportClear _ s).goes.reply _ _

theorem endsIn_goes_takeOutcomes (n : Byte) : EndsIn (Goes s) (execTakeOutcomes n s) := by
  have htaken : Uncommitted s (takeRecords (takeCount n s) s) := uncommitted_modLog s _
  refine .portCommand (.refl s) (Goes.reply ?_ _ _)
  split
  · exact htaken.goes
  · exact (AtMostCommits.after htaken (atMostCommits_afterFall _)).goes

theorem endsIn_goes_start (h : ¬NormalGrant s) (offset : W16) :
    EndsIn (Goes s) (execStart offset s) := by
  refine .portCommand (.refl s) ?_
  split
  · split
    · exact goes_refuse s _
    · exact Goes.reply (.inl (not_normalGrant_startPart _ h)) _ _
  all_goals exact goes_refuse s _

theorem endsIn_goes_stop : EndsIn (Goes s) (execStop s) := by
  refine .portCommand (.refl s) ?_
  split
  · exact Goes.reply (.inl (not_normalGrant_checkStopWork (not_normalGrant_stopEngine _))) _ _
  all_goals exact goes_refuse s _

theorem endsIn_goes_configure (h : ¬NormalGrant s) (r : ConfigWire) :
    EndsIn (Goes s) (execConfigure r s) := by
  refine .portCommand (.refl s) ?_
  split
  · obtain ⟨-, -, -, hengine, -⟩ := applyConfig_keeps (storeConfig r s.cfg) s
    refine Goes.reply (.inl fun hn => h ?_) _ _
    unfold NormalGrant at hn ⊢
    rwa [← hengine]
  all_goals exact goes_refuse s _

/-! ### Events -/

theorem endsIn_goes_stormLineEvent (high : Bool) : EndsIn (Goes s) (execStormLineEvent high s) := by
  refine .next ?_
  split
  · exact Goes.refl s
  · have hpins : Uncommitted s (s.modPins fun p => { p with storm := high }) :=
      .of_engine rfl rfl rfl
    have hlatched : Uncommitted s ((s.modPins fun p => { p with storm := high }).modHolds
        fun h => { h with stormLatch := true }) := .of_engine rfl rfl rfl
    dsimp only
    split
    · exact (hlatched.trans (uncommitted_reportSet _ _)).goes
    · exact hpins.goes

theorem endsIn_goes_parkFallingEdge (h : ¬NormalGrant s) :
    EndsIn (Goes s) (execParkFallingEdge s) := by
  refine .next ?_
  split
  · exact .inl (not_normalGrant_checkStopWork (not_normalGrant_servePark h))
  · exact Goes.refl s

theorem endsIn_goes_waiveTime (tag : W16) : EndsIn (Goes s) (execWaiveTime tag s) := by
  refine .next ?_
  split
  · exact Goes.refl s
  · split
    · exact Goes.refl s
    · split
      · have hwaived := uncommitted_modQueue s
          (modTag tag (Request.modMove fun v => { v with waiveRuns := false }))
        dsimp only
        split
        · exact (AtMostCommits.after hwaived (atMostCommits_evalPoint _ _)).goes
        · exact hwaived.goes
      · exact Goes.refl s

theorem endsIn_goes_expiryTime (tag : W16) : EndsIn (Goes s) (execExpiryTime tag s) := by
  refine .next ?_
  split
  · exact Goes.refl s
  · split
    · exact Goes.refl s
    · split
      · exact (uncommitted_expireRequest _ s).goes
      · exact Goes.refl s

theorem endsIn_goes_paceDeadline (tag : W16) : EndsIn (Goes s) (execPaceDeadline tag s) := by
  refine .next ?_
  split
  · exact Goes.refl s
  · split
    · exact Goes.refl s
    · split
      · exact (atMostCommits_judgePace _ _ s).goes
      · exact Goes.refl s

theorem endsIn_goes_yieldPauseExpiry : EndsIn (Goes s) (execYieldPauseExpiry s) := by
  refine .next ?_
  split
  · have hstopped : Uncommitted s (s.modEngine fun e => { e with yieldPause := none }) :=
      ⟨id, id, rfl, rfl, rfl⟩
    exact (hstopped.trans (uncommitted_evaluate _)).goes
  · exact Goes.refl s

theorem endsIn_goes_startTimeoutExpiry (h : ¬NormalGrant s) :
    EndsIn (Goes s) (execStartTimeoutExpiry s) := by
  refine .next ?_
  split
  · next hs hw _ _ => exact absurd ⟨hs, hw⟩ h
  · exact Goes.refl s

theorem endsIn_goes_overrunExpiry : EndsIn (Goes s) (execOverrunExpiry s) := by
  refine .next ?_
  split
  · split
    · have hstopped : Uncommitted s (s.modEngine fun e => { e with overrun := none }) :=
        ⟨id, id, rfl, rfl, rfl⟩
      exact (hstopped.trans (uncommitted_raiseFault _ _ _)).goes
    · exact Goes.refl s
  · exact Goes.refl s

theorem endsIn_goes_settleExpiry : EndsIn (Goes s) (execSettleExpiry s) := by
  refine .next ?_
  split
  · exact .inl (not_normalGrant_endSettling s)
  · exact Goes.refl s

theorem endsIn_goes_windStalenessExpiry : EndsIn (Goes s) (execWindStalenessExpiry s) := by
  refine .next ?_
  split
  · have hstale : Uncommitted s (s.modWind fun w =>
        { w with condition := .stale, staleness := none }) := .of_engine rfl rfl rfl
    exact ((hstale.trans (uncommitted_reportSet _ _)).trans (uncommitted_raiseFault _ _ _)).goes
  · exact Goes.refl s

/-! ### The link -/

/-- A change that leaves the engine, the builder and the configuration alone. -/
theorem goes_of_engine {t : State} (he : t.engine = s.engine)
    (hm : t.builder.move = s.builder.move) (hc : t.cfg = s.cfg) : Goes s t :=
  (Uncommitted.of_engine he hm hc).goes

theorem not_normalGrant_endFinal (h : ¬NormalGrant s) : ¬NormalGrant (endFinal s) := by
  unfold endFinal
  split
  · exact h
  · exact not_normalGrant_enterConfig s
  · exact h

theorem atMostCommits_enterReady : AtMostCommits s (enterReady s) :=
  .after (uncommitted_modLink s _) (atMostCommits_reportClear _ _)

theorem uncommitted_enterCheck : Uncommitted s (enterCheck s) :=
  ((uncommitted_modLink s _).trans (uncommitted_reportSet _ _)).trans (uncommitted_raiseFault _ _ _)

theorem uncommitted_enterDown : Uncommitted s (enterDown s) :=
  (uncommitted_modLink s _).trans (uncommitted_reportSet _ _)

theorem not_normalGrant_collision (h : ¬NormalGrant s) : ¬NormalGrant (collision s) := by
  have hcount := uncommitted_modLink s fun l => { l with collisions := min 8 (l.collisions + 1) }
  unfold collision
  dsimp only
  split
  · split
    · exact (hcount.trans uncommitted_enterCheck).not_normalGrant h
    · exact (hcount.trans (uncommitted_modLink _ _)).not_normalGrant h
  · exact not_normalGrant_endFinal (hcount.not_normalGrant h)

theorem endsIn_goes_lsdDeasserted : EndsIn (Goes s) (execLsdDeasserted s) := by
  refine .next ?_
  split
  · dsimp only
    split <;> exact goes_of_engine rfl rfl rfl
  · exact Goes.refl s

theorem endsIn_goes_lsdAsserted : EndsIn (Goes s) (execLsdAsserted s) := by
  refine .next ?_
  split
  · exact Goes.refl s
  · dsimp only
    split <;> exact goes_of_engine rfl rfl rfl

theorem endsIn_goes_laneActivity : EndsIn (Goes s) (execLaneActivity s) := by
  refine .next ?_
  dsimp only
  split <;> exact goes_of_engine rfl rfl rfl

theorem endsIn_goes_laneQuiet : EndsIn (Goes s) (execLaneQuiet s) := by
  refine .next ?_
  dsimp only
  split <;> exact goes_of_engine rfl rfl rfl

theorem endsIn_goes_gapEnd : EndsIn (Goes s) (execGapEnd s) := by
  refine .next ?_
  split <;> exact goes_of_engine rfl rfl rfl

theorem endsIn_goes_endOfTransmission : EndsIn (Goes s) (execEndOfTransmission s) := by
  refine .next ?_
  split <;> exact goes_of_engine rfl rfl rfl

theorem endsIn_goes_backoffEnd : EndsIn (Goes s) (execBackoffEnd s) := by
  refine .next ?_
  split <;> exact goes_of_engine rfl rfl rfl

theorem endsIn_goes_echoDeadline (h : ¬NormalGrant s) : EndsIn (Goes s) (execEchoDeadline s) := by
  refine .next ?_
  split
  · exact .inl (not_normalGrant_collision h)
  all_goals exact Goes.refl s

theorem endsIn_goes_listenTimerExpiry : EndsIn (Goes s) (execListenTimerExpiry s) := by
  refine .next ?_
  split
  · exact atMostCommits_enterReady.goes
  · exact Goes.refl s

theorem endsIn_goes_checkPeriodExpiry : EndsIn (Goes s) (execCheckPeriodExpiry s) := by
  refine .next ?_
  split
  · split
    · exact atMostCommits_enterReady.goes
    · exact goes_of_engine rfl rfl rfl
  · exact Goes.refl s

theorem endsIn_goes_signalLossTimerExpiry : EndsIn (Goes s) (execSignalLossTimerExpiry s) := by
  refine .next ?_
  split
  · split
    · exact uncommitted_enterDown.goes
    · exact .inl (not_normalGrant_enterConfig _)
  · exact Goes.refl s

theorem endsIn_goes_refreshTimerExpiry : EndsIn (Goes s) (execRefreshTimerExpiry s) := by
  refine .next ?_
  split
  · dsimp only
    split <;> exact goes_of_engine rfl rfl rfl
  · exact Goes.refl s

/-! ### The intake and the tables -/

theorem endsIn_goes_geometryPoint : EndsIn (Goes s) (execGeometryPoint s) := by
  refine .next ?_
  split
  · split <;> exact goes_of_engine rfl rfl rfl
  · exact Goes.refl s

theorem uncommitted_modWindows (s : State) (f : List Window → List Window) :
    Uncommitted s (s.modWindows f) := .of_engine rfl rfl rfl

theorem uncommitted_tableStep (f : Frame) (arrival : Nat) (g : Option GeometryResult) (s : State) :
    Uncommitted s (tableStep f arrival g s) := by
  rcases tableStep_cases f arrival g s with hn | ⟨ctx, hf⟩
  · rw [hn]
    exact .of_engine rfl rfl rfl
  · rw [hf]
    exact uncommitted_raiseFault _ _ s

theorem uncommitted_createWindow (w : Window) (s : State) : Uncommitted s (createWindow w s) := by
  unfold createWindow
  split
  · exact Uncommitted.refl s
  · split
    · exact uncommitted_modWindows s _
    · split
      · exact uncommitted_modWindows s _
      · split
        · exact (uncommitted_modWindows s _).trans (uncommitted_raiseFault _ _ _)
        · exact uncommitted_raiseFault _ _ s

theorem uncommitted_keyStep (f : Frame) (arrival along : Nat) (across : Int) (delay : Nat)
    (s : State) : Uncommitted s (keyStep f arrival along across delay s) := by
  obtain hk | ⟨w, -, -, -, ⟨-, hk⟩ | ⟨v, -, hk⟩⟩ := keyStep_cases f arrival along across delay s
  · rw [hk]; exact Uncommitted.refl s
  · rw [hk]; exact uncommitted_createWindow w s
  · rw [hk]; exact uncommitted_modWindows s _

theorem uncommitted_windowStep (f : Frame) (arrival : Nat) (g : Option GeometryResult) (s : State) :
    Uncommitted s (windowStep f arrival g s) := by
  rw [windowStep_eq]
  refine Uncommitted.trans (t := windowWrites f arrival g s) ?_ (.of_engine rfl rfl rfl)
  unfold windowWrites
  split
  · have hothers := uncommitted_modWindows s (settleOthers s.cfg s.now arrival f.station f.move)
    dsimp only
    split
    · exact hothers.trans (uncommitted_keyStep f arrival _ _ _ _)
    · exact hothers.trans (uncommitted_modWindows _ _)
    · exact hothers
  · exact uncommitted_modWindows s _

theorem goes_takeFrame {t : State} (h : AtMostCommits s t) : Goes s (takeFrame t) := by
  unfold takeFrame
  split
  · exact ((h.modLink _).withIntake _).goes
  · exact h.goes

theorem endsIn_goes_intakeCompletion : EndsIn (Goes s) (execIntakeCompletion s) := by
  refine .next ?_
  split
  · split
    · have hidle : Uncommitted s (s.withIntake none) := .of_engine rfl rfl rfl
      refine goes_takeFrame ?_
      split
      · exact .inl hidle
      · exact .after ((hidle.trans (uncommitted_tableStep _ _ _ _)).trans
          (uncommitted_windowStep _ _ _ _)) (atMostCommits_evalPoint _ _)
    · exact Goes.refl s
  · exact Goes.refl s

theorem endsIn_goes_entryExpiry (station : Nat) : EndsIn (Goes s) (execEntryExpiry station s) := by
  refine .next ?_
  split
  · split
    · have hremoved : Uncommitted s (s.modNeighbours (removeNeighbour station)) :=
        .of_engine rfl rfl rfl
      exact (AtMostCommits.after hremoved (atMostCommits_evalPoint _ _)).goes
    · exact Goes.refl s
  · exact Goes.refl s

theorem endsIn_goes_windowClose (station : Nat) (move : Byte) :
    EndsIn (Goes s) (execWindowClose station move s) := by
  refine .next ?_
  split
  · split
    · have hremoved : Uncommitted s (rederive (s.modWindows (removeWindow station move))) :=
        .of_engine rfl rfl rfl
      exact (AtMostCommits.after hremoved (atMostCommits_evalPoint _ _)).goes
    · exact Goes.refl s
  · exact Goes.refl s

theorem endsIn_goes_binBoundary : EndsIn (Goes s) (execBinBoundary s) := by
  refine .next ?_
  split
  · have hmap : Uncommitted s (rederive (s.modMap fun m =>
        { m with base := m.base + binPeriod s.cfg
                 boundary := later (m.base + binPeriod s.cfg) (binPeriod s.cfg) })) :=
      .of_engine rfl rfl rfl
    dsimp only
    split
    · exact hmap.goes
    · exact (AtMostCommits.after hmap (atMostCommits_evalPoint _ _)).goes
  · exact Goes.refl s

end

/-- The commands whose commit rests on what the state held before them. -/
theorem endsIn_goes (c : Instr) {s : State} (h : ¬NormalGrant s) (hholdOff : c ≠ .holdOffExpiry)
    (hframe : ∀ rx, c ≠ .frameReceived rx) : EndsIn (Goes s) (exec c s) := by
  cases c with
  | hardwareReset selLow => exact .next (.inl (not_normalGrant_of_state (st := .idle) rfl nofun))
  | localTimeTick => exact .next (goes_of_engine rfl rfl rfl)
  | configure r => exact endsIn_goes_configure h r
  | start offset => exact endsIn_goes_start h offset
  | stop => exact endsIn_goes_stop
  | wind direction speed =>
    have htaken : Uncommitted s (takeWind direction speed s) := .of_engine rfl rfl rfl
    exact endsIn_goes_ok (AtMostCommits.after htaken (atMostCommits_reportClear .wind _)).goes s.part
  | submit tag cls target wf wd ef ed => exact endsIn_goes_submit tag cls target wf wd ef ed
  | submitSweep tag cls step count pacing interval policy =>
    exact endsIn_goes_submitSweep tag cls step count pacing interval policy
  | extend tag extension => exact endsIn_goes_extend tag extension
  | confirm => exact endsIn_goes_confirm
  | cancel tag => exact endsIn_goes_cancel tag
  | begun tag => exact endsIn_goes_begun tag
  | ended tag achieved => exact endsIn_goes_ended tag achieved
  | hold => exact endsIn_goes_ok (uncommitted_reportSet .soft s).goes s.part
  | release => exact endsIn_goes_ok (atMostCommits_reportClear .soft s).goes s.part
  | clearHold source => exact endsIn_goes_clearHold source
  | resume => exact endsIn_goes_resume
  | status =>
    refine .portCommand (.refl s) (Goes.reply ?_ _ _)
    exact goes_of_engine rfl rfl rfl
  | takeOutcomes n => exact endsIn_goes_takeOutcomes n
  | readNeighbours first => exact .portCommand (.refl s) ((Goes.refl s).reply _ _)
  | readWindows first => exact .portCommand (.refl s) ((Goes.refl s).reply _ _)
  | clearFaults kinds =>
    refine .portCommand (.refl s) (Goes.reply ?_ _ _)
    exact goes_of_engine rfl rfl rfl
  | clearLost =>
    refine .portCommand (.refl s) (Goes.reply ?_ _ _)
    exact goes_of_engine rfl rfl rfl
  | unknownCode code => exact .portCommand (.refl s) (goes_refuse s _)
  | stormLineEvent high => exact endsIn_goes_stormLineEvent high
  | parkFallingEdge => exact endsIn_goes_parkFallingEdge h
  | lsdDeasserted => exact endsIn_goes_lsdDeasserted
  | lsdAsserted => exact endsIn_goes_lsdAsserted
  | frameReceived rx => exact absurd rfl (hframe rx)
  | laneActivity => exact endsIn_goes_laneActivity
  | laneQuiet => exact endsIn_goes_laneQuiet
  | gapEnd => exact endsIn_goes_gapEnd
  | endOfTransmission => exact endsIn_goes_endOfTransmission
  | echoDeadline => exact endsIn_goes_echoDeadline h
  | backoffEnd => exact endsIn_goes_backoffEnd
  | listenTimerExpiry => exact endsIn_goes_listenTimerExpiry
  | checkPeriodExpiry => exact endsIn_goes_checkPeriodExpiry
  | signalLossTimerExpiry => exact endsIn_goes_signalLossTimerExpiry
  | refreshTimerExpiry => exact endsIn_goes_refreshTimerExpiry
  | geometryPoint => exact endsIn_goes_geometryPoint
  | intakeCompletion => exact endsIn_goes_intakeCompletion
  | entryExpiry station => exact endsIn_goes_entryExpiry station
  | windowClose station move => exact endsIn_goes_windowClose station move
  | binBoundary => exact endsIn_goes_binBoundary
  | windStalenessExpiry => exact endsIn_goes_windStalenessExpiry
  | waiveTime tag => exact endsIn_goes_waiveTime tag
  | expiryTime tag => exact endsIn_goes_expiryTime tag
  | paceDeadline tag => exact endsIn_goes_paceDeadline tag
  | holdOffExpiry => exact absurd rfl hholdOff
  | yieldPauseExpiry => exact endsIn_goes_yieldPauseExpiry
  | startTimeoutExpiry => exact endsIn_goes_startTimeoutExpiry h
  | overrunExpiry => exact endsIn_goes_overrunExpiry
  | settleExpiry => exact endsIn_goes_settleExpiry
  | guardAfterStart => exact .next (uncommitted_guardRise s).goes
  | transactionEnd => exact .next (goes_of_engine rfl rfl rfl)

/-! ### The hold-off expiry and the echo -/

theorem due_iff (t : Timer) (now : Nat) : Timer.due t now = true ↔ Reached t now := by
  cases t <;> simp [Timer.due, Reached]

/-- The commit at the hold-off expiry, from the intent with its marker set (R145). -/
theorem commit_of_holdOffExpiry {s t : State} (h : ¬NormalGrant s)
    (hexec : execHoldOffExpiry s = .next t) (ht : NormalGrant t) :
    Reached s.engine.holdOff s.now ∧ s.engine.state = .intent ∧ s.engine.echo = true ∧
      Commit (s.modEngine fun e => { e with expired := true, holdOff := none }) t := by
  refine EndsIn.next (p := fun t => NormalGrant t → Reached s.engine.holdOff s.now ∧
      s.engine.state = .intent ∧ s.engine.echo = true ∧
      Commit (s.modEngine fun e => { e with expired := true, holdOff := none }) t)
    (fun ht => ?_) t hexec ht
  split at ht
  · next hdue =>
    obtain ⟨hdue, hs⟩ := hdue
    rw [if_pos ⟨hdue, hs⟩]
    dsimp only at ht ⊢
    split at ht
    · next hecho =>
      rw [if_pos hecho]
      refine ⟨(due_iff _ _).1 hdue, hs, hecho, ?_⟩
      rcases atMostCommits_commitTest (s := s.modEngine fun e =>
        { e with expired := true, holdOff := none }) ⟨hs, hecho, rfl⟩ with hk | hk
      · exact absurd (hk.granted ht) h
      · exact hk
    · exact absurd ht h
  · exact absurd ht h

/-- What the frame that gives back the bytes sent finds when it confirms the INTENT edition
(R30, R48). -/
structure EchoesIntent (s : State) : Prop where
  stage : s.link.stage = .echoWait
  sentCurrent : s.link.sentCurrent = true
  confirmed : s.link.slot.confirmed = false
  edition : s.link.slot.edition.map Edition.phase = some .intent

/-- A good echo commits from the intent as it stood, or from the intent with this very echo. -/
theorem commit_of_goodEcho {s : State} (h : ¬NormalGrant s) (hstage : s.link.stage = .echoWait)
    (ht : NormalGrant (goodEcho s)) :
    EchoesIntent s ∧ Commit (s.modEngine fun e => { e with echo := true }) (goodEcho s) := by
  set e := s.modEngine fun e => { e with echo := true } with he
  set s1 := (s.modLink fun l => { l with collisions := 0 }).modLink fun l =>
    { l.abandon with slot := { l.slot with confirmed := true } } with hs1
  have hconfirm : NormalGrant (confirmation s1) → s.link.slot.edition.map Edition.phase = some .intent ∧
      Commit e (confirmation s1) := by
    unfold confirmation
    split
    · next hcond =>
      intro hn
      refine ⟨hcond.2, ?_⟩
      have hlink : Uncommitted e (s1.modEngine fun e => { e with echo := true }) :=
        .of_engine rfl rfl rfl
      rcases AtMostCommits.after hlink (atMostCommits_evalPoint false _) with hk | hk
      · exact absurd (hk.granted hn) h
      · exact hk
    · exact fun hn => absurd hn h
  have hfinal : ∀ u, NormalGrant (if s.link.final = .none then u else endFinal u) → NormalGrant u ∧
      ∀ v, Commit v u → Commit v (if s.link.final = .none then u else endFinal u) := by
    intro u
    split
    · exact fun hn => ⟨hn, fun _ hv => hv⟩
    · unfold endFinal
      split
      · exact fun hn => ⟨hn, fun _ hv => hv.before rfl rfl rfl rfl rfl rfl rfl rfl⟩
      · exact fun hn => absurd hn (not_normalGrant_enterConfig _)
      · exact fun hn => ⟨hn, fun _ hv => hv⟩
  unfold goodEcho at ht ⊢
  dsimp only at ht ⊢
  rw [← hs1] at ht ⊢
  split at ht
  · next hcurrent =>
    rw [if_pos hcurrent]
    obtain ⟨hn, hlift⟩ := hfinal _ ht
    split at hn
    · exact absurd hn h
    · next hconfirmed =>
      rw [if_neg hconfirmed] at hlift ⊢
      obtain ⟨hedition, hcommit⟩ := hconfirm hn
      exact ⟨⟨hstage, hcurrent, by simpa using hconfirmed, hedition⟩, hlift e hcommit⟩
  · split at ht
    · exact absurd ht h
    · next hfin =>
      unfold endFinal at ht
      split at ht
      · exact absurd ht h
      · exact absurd ht (not_normalGrant_enterConfig _)
      · exact absurd ht h

theorem not_normalGrant_otherFrame (f : Frame) {s : State} (h : ¬NormalGrant s) :
    ¬NormalGrant (otherFrame f s) := by
  unfold otherFrame
  dsimp only
  split
  · exact ((uncommitted_modLink s _).trans (uncommitted_raiseFault _ _ _)).not_normalGrant h
  · unfold takeFrame
    split <;> exact h

/-- A frame's command with its effect under a name. -/
def frameEffect (rx : Received) (s : State) : State :=
  if s.link.trail.current.receives && s.pins.light then
    match rx, wellFormedFrame rx with
    | .delimited bytes, some f =>
      if f.station = s.cfg.station then ownFrame bytes s else otherFrame f s
    | _, _ => s
  else s

theorem execFrameReceived_eq (rx : Received) (s : State) :
    execFrameReceived rx s = .next (frameEffect rx s) := rfl

/-- Of all frames only the echo of the current INTENT edition can lead to a commit. -/
theorem commit_of_frameReceived {rx : Received} {s : State} (h : ¬NormalGrant s)
    (ht : NormalGrant (frameEffect rx s)) :
    rx = .delimited s.link.sent ∧
      (wellFormedFrame (.delimited s.link.sent)).map Frame.station = some s.cfg.station ∧
      EchoesIntent s ∧ Commit (s.modEngine fun e => { e with echo := true }) (frameEffect rx s) := by
  have hown : ∀ bytes f, wellFormedFrame (.delimited bytes) = some f → f.station = s.cfg.station →
      NormalGrant (ownFrame bytes s) → bytes = s.link.sent ∧ EchoesIntent s ∧
        Commit (s.modEngine fun e => { e with echo := true }) (ownFrame bytes s) := by
    intro bytes f _ _
    unfold ownFrame
    split
    · next hstage =>
      split
      · next hbytes => exact fun hn => ⟨hbytes, commit_of_goodEcho h hstage hn⟩
      · exact fun hn => absurd hn (not_normalGrant_collision h)
    all_goals exact fun hn => absurd hn ((uncommitted_raiseFault _ _ s).not_normalGrant h)
  unfold frameEffect at ht ⊢
  split at ht
  · next hlit =>
    rw [if_pos hlit]
    split at ht
    · next bytes f hframe =>
      split at ht
      · next hstation =>
        obtain ⟨rfl, hecho, hcommit⟩ := hown bytes f hframe hstation ht
        refine ⟨rfl, by rw [hframe, Option.map_some, hstation], hecho, ?_⟩
        rw [if_pos hstation]
        exact hcommit
      · exact absurd ht (not_normalGrant_otherFrame f h)
    · exact absurd ht h
  · exact absurd ht h

end Sys2Proof.Machine

section
open Sys2Proof Sys2Proof.Machine

/-- Settles O32: a normal grant comes of the commit test alone, and the commit test is made on an intent
with its echo and its hold-off; the echo can be this frame's, the hold-off's end this expiry. -/
theorem commitOnlyWhen : Obligations.CommitOnlyWhen := by
  unfold Obligations.CommitOnlyWhen
  intro c s t hexec hs hstate hwork
  have h : ¬NormalGrant s := fun hn => hs hn.1
  have ht : NormalGrant t := ⟨hstate, hwork⟩
  by_cases hholdOff : c = .holdOffExpiry
  · subst hholdOff
    obtain ⟨hreached, hintent, hecho, hcommit⟩ := commit_of_holdOffExpiry h hexec ht
    exact ⟨hintent, hcommit.free, .inl hecho, .inr ⟨rfl, hreached⟩, hcommit.front⟩
  · by_cases hframe : ∃ rx, c = .frameReceived rx
    · obtain ⟨rx, rfl⟩ := hframe
      cases hexec
      obtain ⟨rfl, hstation, hecho, hcommit⟩ := commit_of_frameReceived h ht
      obtain ⟨hintent, -, hexpired⟩ := hcommit.ripe
      exact ⟨hintent, hcommit.free, .inr ⟨rfl, hecho.stage, hecho.sentCurrent, hecho.confirmed,
        hstation, hecho.edition⟩, .inl hexpired, hcommit.front⟩
    · rcases endsIn_goes c h hholdOff (not_exists.1 hframe) t hexec with hn | hk | hcommit
      · exact absurd ht hn
      · exact absurd (hk.granted ht) h
      · obtain ⟨hintent, hecho, hexpired⟩ := hcommit.ripe
        exact ⟨hintent, hcommit.free, .inl hecho, .inl hexpired, hcommit.front⟩

end
end

section
/-! SUPPORT. The port, the answers and the refusals (R188, R189), reset and time (R1, R194). -/

namespace Sys2Proof.Machine

/-! ### Refusals -/

/-- A port that takes the command answers it WRONG-STATE. -/
theorem portCommand_wrongState {s t : State} (hport : s.port.phase = .noTransaction)
    (ht : t = refuse .wrongState s) : portCommand s t = .next (s.answering [1]) := by
  rw [portCommand_taken t hport, ht]
  rfl

/-! ### Answers -/

/-- The port has taken a command and holds its answer record. -/
def Replied (s : State) : Prop := ∃ code fields, s.port = ⟨.taken, code :: fields⟩

theorem replied_reply (a : Answer) (fields : List Byte) (s : State) :
    Replied (reply a fields s) := ⟨_, _, rfl⟩

theorem replied_portCommand {s t : State} (hport : s.port.phase = .noTransaction)
    (ht : Replied t) : ∃ u, portCommand s t = .next u ∧ Replied u :=
  ⟨t, portCommand_taken t hport, ht⟩

/-- Every port command that is taken forms an answer record. -/
theorem exec_replied (c : Instr) {s : State} (hport : s.port.phase = .noTransaction)
    (hc : isPortCommand c = true) : ∃ t, exec c s = .next t ∧ Replied t := by
  cases c with
  | configure r => refine replied_portCommand hport ?_; split <;> exact replied_reply _ _ _
  | start offset =>
    refine replied_portCommand hport ?_
    split
    · split <;> exact replied_reply _ _ _
    all_goals exact replied_reply _ _ _
  | stop => refine replied_portCommand hport ?_; split <;> exact replied_reply _ _ _
  | wind direction speed => refine replied_portCommand hport ?_; split <;> exact replied_reply _ _ _
  | submit tag cls target wf wd ef ed =>
    refine replied_portCommand hport ?_
    repeat' split
    all_goals exact replied_reply _ _ _
  | submitSweep tag cls step count pacing interval policy =>
    refine replied_portCommand hport ?_
    repeat' split
    all_goals exact replied_reply _ _ _
  | extend tag extension =>
    refine replied_portCommand hport ?_
    repeat' split
    all_goals exact replied_reply _ _ _
  | confirm =>
    refine replied_portCommand hport ?_
    repeat' split
    all_goals exact replied_reply _ _ _
  | cancel tag =>
    refine replied_portCommand hport ?_
    repeat' split
    all_goals exact replied_reply _ _ _
  | begun tag =>
    refine replied_portCommand hport ?_
    repeat' split
    all_goals exact replied_reply _ _ _
  | ended tag achieved =>
    refine replied_portCommand hport ?_
    repeat' split
    all_goals exact replied_reply _ _ _
  | hold => refine replied_portCommand hport ?_; split <;> exact replied_reply _ _ _
  | release => refine replied_portCommand hport ?_; split <;> exact replied_reply _ _ _
  | clearHold source =>
    refine replied_portCommand hport ?_
    repeat' split
    all_goals exact replied_reply _ _ _
  | resume =>
    refine replied_portCommand hport ?_
    repeat' split
    all_goals exact replied_reply _ _ _
  | status => exact replied_portCommand hport (replied_reply _ _ _)
  | takeOutcomes n => exact replied_portCommand hport (replied_reply _ _ _)
  | readNeighbours first => exact replied_portCommand hport (replied_reply _ _ _)
  | readWindows first => exact replied_portCommand hport (replied_reply _ _ _)
  | clearFaults kinds => exact replied_portCommand hport (replied_reply _ _ _)
  | clearLost => exact replied_portCommand hport (replied_reply _ _ _)
  | unknownCode code => exact replied_portCommand hport (replied_reply _ _ _)
  | _ => contradiction

/-- Every port command goes through the port (R188). -/
theorem exec_eq_portCommand (c : Instr) (s : State) (hc : isPortCommand c = true) :
    ∃ t, exec c s = portCommand s t := by
  cases c <;> first | exact ⟨_, rfl⟩ | contradiction

/-- SDO after a taken command: the turnaround, the answer record, then zeros (R188). -/
theorem sdo_of_answer {p : Port} {code : Byte} {fields : List Byte}
    (hp : p = ⟨.taken, code :: fields⟩) :
    p.sdo 0 = some 0 ∧ p.sdo 1 = some 0 ∧ p.sdo 2 = some code ∧
      (∀ k b, fields[k]? = some b → p.sdo (3 + k) = some b) ∧
      ∀ k, fields.length ≤ k → p.sdo (3 + k) = some 0 := by
  subst hp
  have hfield : ∀ k, (⟨.taken, code :: fields⟩ : Port).sdo (3 + k) = some (fields.getD k 0) := by
    intro k
    rw [Port.sdo_taken rfl, Nat.add_comm 3 k]
    rfl
  refine ⟨rfl, rfl, rfl, fun k b hk => ?_, fun k hk => ?_⟩
  · rw [hfield, List.getD_eq_getElem?_getD, hk]
    rfl
  · rw [hfield, List.getD_eq_getElem?_getD, List.getElem?_eq_none hk]
    rfl

end Sys2Proof.Machine

section
open Sys2Proof Sys2Proof.Machine

/-- Settles O1: the two cases of the step's own definition. -/
theorem stepRunsFrontCommand : Obligations.StepRunsFrontCommand := by
  unfold Obligations.StepRunsFrontCommand
  exact ⟨fun _ _ _ => rfl, fun _ => rfl⟩

/-- Settles O5: reset and tick are the updates that the claim writes out, and each reset value is read
off the reset state. -/
theorem resetAndTick : Obligations.ResetAndTick := by
  unfold Obligations.ResetAndTick
  refine ⟨fun _ _ => rfl, fun _ => rfl, ?_⟩
  decide

/-- Settles O7: each of the commands is refused by the branch of the part state in which it comes. -/
theorem wrongStateChangesNothing : Obligations.WrongStateChangesNothing := by
  unfold Obligations.WrongStateChangesNothing
  intro s hport
  have refused : ∀ {t : State}, t = refuse .wrongState s →
      portCommand s t = .next (s.answering [1]) := portCommand_wrongState hport
  refine ⟨fun hp => ⟨fun r => refused ?_, fun o => refused ?_⟩,
    fun hp => ⟨refused ?_, fun _ _ _ _ _ _ _ => refused ?_, fun _ _ _ _ _ _ _ => refused ?_,
      fun _ _ => refused ?_, refused ?_⟩,
    fun hp => ⟨fun _ _ => refused ?_, fun _ => refused ?_, fun _ => refused ?_,
      fun _ _ => refused ?_, refused ?_, refused ?_, fun _ => refused ?_, refused ?_⟩⟩
  all_goals
    cases hs : s.part
    all_goals first | rfl | exact absurd hs hp | exact absurd (hs.symm.trans hp) nofun

/-- Settles O8: a taken command's answer record stands on the port, from where SDO reads it; any other
phase of the port lets the command go by. -/
theorem portBoundaries : Obligations.PortBoundaries := by
  unfold Obligations.PortBoundaries
  refine ⟨fun code s hport => portCommand_taken _ hport, fun c s hport hc => ?_,
    fun c s hport hc => ?_, fun s => ⟨rfl, fun _ => rfl⟩⟩
  · obtain ⟨t, ht⟩ := exec_eq_portCommand c s hc
    rw [ht, portCommand_ignored t hport]
  · obtain ⟨t, ht, code, fields, hanswer⟩ := exec_replied c hport hc
    exact ⟨t, code, fields, ht, hanswer, sdo_of_answer hanswer⟩

end
end

section
/-! SUPPORT. Holds and faults: HOLD, RELEASE, RESUME, CLEAR_HOLD, the STORM line, GUARD_AFTER_START,
the wind record going stale, the overrun timer, and the reading commands (chapters 09 and 10). -/

namespace Sys2Proof.Machine

/-! ### Sources set and cleared -/

/-- The source reported set stands in the hold set. -/
theorem holds_of_sourceSet {s t : State} {src : HoldSource} (h : SourceSet s t src) :
    t.holds = s.holds.put src true := by
  obtain ⟨heq, -⟩ := h
  rw [heq]

/-- A report of a source clear that leaves the set empty, where a test keeps the head, does nothing
more than clear it. -/
theorem holds_reportClear_of_stays {s : State} {src : HoldSource} {r : Request}
    {rest : List Request} (hpart : s.part ≠ .config) (hset : s.holds.get src = true)
    (hq : s.queue = r :: rest) (hstate : s.engine.state = .waiting)
    (hstays : HeadStays { s with holds := s.holds.put src false } r) :
    (reportClear src s).holds = s.holds.put src false := by
  let cleared := latchHold (s.modHolds fun h => h.put src false)
  have he : reportClear src s =
      if cleared.holds.held then heldEffect cleared else evalPoint false cleared := by
    unfold reportClear
    rw [if_neg (by simp [hpart, hset])]
  have hstays' : HeadStays cleared r := hstays
  rw [he]
  split
  · rw [heldEffect_eq]
    rfl
  · rw [evalPoint_of_waiting (s := cleared) _ hstate, evaluate_of_stays (s := cleared) hq hstays']
    rfl

/-! ### Faults -/

/-- A fault raised while the engine has no intent and no normal grant to give up: the recorder, and
HALT if the kind is FATAL (R182). -/
theorem raiseFault_of_steady {s : State} (hpart : s.part ≠ .config) (hi : s.engine.state ≠ .intent)
    (hg : ¬(s.engine.state = .granted ∧ s.engine.work = .request)) (k : FaultKind)
    (ctx : FaultContext) :
    raiseFault k ctx s = { s with
      recorder := s.recorder.raised s.cfg s.now k ctx
      holds := if setsHalt s.cfg k then { s.holds with halt := true } else s.holds
      attention := { s.attention with
        holdLatched := s.attention.holdLatched || (setsHalt s.cfg k && !s.holds.halt) } } := by
  have hr := raiseFault_reporting hpart k ctx s.log s.recorder s.holds s.attention
  rw [heldEffect_of_coherent hi hg] at hr
  have hs : s.reporting s.log s.recorder s.holds s.attention = s := rfl
  have hholds : s.holds.halt = true → { s.holds with halt := true } = s.holds := fun h => by
    rw [← h]
  rw [hs] at hr
  rw [hr]
  cases setsHalt s.cfg k with
  | false => simp
  | true =>
    cases hh : s.holds.halt with
    | false => simp
    | true => simp [hholds hh]

/-- A source that was clear set, then a fault raised, as one update: the engine acts once. -/
theorem raiseFault_reportSet {s : State} (hpart : s.part ≠ .config) {src : HoldSource}
    (hclear : s.holds.get src = false) (k : FaultKind) (ctx : FaultContext) :
    raiseFault k ctx (reportSet src s) =
      (heldEffect s).reporting s.log (s.recorder.raised s.cfg s.now k ctx)
        (if setsHalt s.cfg k then { s.holds.put src true with halt := true }
          else s.holds.put src true)
        { s.attention with holdLatched := true } := by
  have hpart' : (heldEffect s).part ≠ .config := by rwa [(keeps_heldEffect s).part]
  have hset : reportSet src s = (heldEffect s).reporting s.log s.recorder (s.holds.put src true)
      { s.attention with holdLatched := true } := by
    have h := reportSet_reporting hpart src s.log s.recorder s.holds s.attention
    rwa [if_neg (by rw [hclear]; exact Bool.false_ne_true)] at h
  rw [hset, raiseFault_reporting hpart', (keeps_heldEffect s).cfg, (keeps_heldEffect s).now,
    heldEffect_of_coherent (heldEffect_blocks s).1 (heldEffect_blocks s).2]
  have hholds : ∀ h : Holds, h.halt = true → { h with halt := true } = h := fun h hh => by rw [← hh]
  generalize s.holds.put src true = put
  cases setsHalt s.cfg k with
  | false => simp
  | true =>
    cases hh : put.halt with
    | false => simp
    | true => simp [hholds put hh]

/-! ### HOLD, RELEASE, RESUME and CLEAR_HOLD -/

/-- A port command whose meaning outside CONFIG answers OK. -/
theorem portCommand_ok {s t u : State} (hport : s.port.phase = .noTransaction)
    (ht : t = answerOk u) : portCommand s t = .next (answerOk u) := by
  rw [portCommand_taken t hport, ht]

/-- Outside CONFIG a taken HOLD is answered OK and SOFT is reported set. -/
theorem execHold_of_not_config {s : State} (hport : s.port.phase = .noTransaction)
    (hpart : s.part ≠ .config) : execHold s = .next (reportSet .soft (s.answering [0])) := by
  have hanswer : reportSet .soft (s.answering [0]) = answerOk (reportSet .soft s) :=
    reportSet_modPort (fun _ => ⟨.taken, [0]⟩) .soft s
  rw [hanswer]
  refine portCommand_ok hport ?_
  split
  · contradiction
  all_goals rfl

/-- Outside CONFIG a taken RELEASE is answered OK and SOFT is reported clear. -/
theorem execRelease_of_not_config {s : State} (hport : s.port.phase = .noTransaction)
    (hpart : s.part ≠ .config) : execRelease s = .next (reportClear .soft (s.answering [0])) := by
  have hanswer : reportClear .soft (s.answering [0]) = answerOk (reportClear .soft s) :=
    reportClear_modPort (fun _ => ⟨.taken, [0]⟩) .soft s
  rw [hanswer]
  refine portCommand_ok hport ?_
  split
  · contradiction
  all_goals rfl

/-- Outside CONFIG a taken RESUME with a FATAL kind in the status is refused. -/
theorem execResume_of_pending {s : State} (hport : s.port.phase = .noTransaction)
    (hpart : s.part ≠ .config) (hpending : s.recorder.status &&& s.cfg.faultSeverities ≠ 0) :
    execResume s = .next (s.answering [13]) := by
  unfold execResume
  rw [portCommand_taken _ hport, if_pos hpending]
  split
  · contradiction
  all_goals rfl

/-- Outside CONFIG a taken RESUME with no FATAL kind in the status is answered OK and HALT is reported
clear. -/
theorem execResume_of_none {s : State} (hport : s.port.phase = .noTransaction)
    (hpart : s.part ≠ .config) (hnone : s.recorder.status &&& s.cfg.faultSeverities = 0) :
    execResume s = .next (reportClear .halt (s.answering [0])) := by
  have hanswer : reportClear .halt (s.answering [0]) = answerOk (reportClear .halt s) :=
    reportClear_modPort (fun _ => ⟨.taken, [0]⟩) .halt s
  rw [hanswer]
  refine portCommand_ok hport ?_
  rw [if_neg (not_not.2 hnone)]
  split
  · contradiction
  all_goals rfl

theorem stormActive_iff (s : State) : stormActive s = true ↔
    (s.cfg.stormSense = .high ∧ s.pins.storm = true) ∨
      (s.cfg.stormSense = .low ∧ s.pins.storm = false) := by
  unfold stormActive
  cases s.cfg.stormSense <;> simp

theorem linesObserved_iff (s : State) :
    linesObserved s = true ↔ s.part ≠ .config ∧ s.link.final = .none := by
  simp [linesObserved]

theorem stormSets_iff (sense : StormSense) (high : Bool) :
    stormSets sense high = true ↔ (high = true ↔ (sense = .high ∨ sense = .rising)) := by
  cases sense <;> simp [stormSets]

theorem ofCode_eq_storm_iff (source : Byte) : HoldSource.ofCode source = some .storm ↔ source = 0 := by
  unfold HoldSource.ofCode
  constructor
  · intro h
    split at h
    · next h0 => exact BitVec.eq_of_toNat_eq h0
    all_goals simp at h
  · rintro rfl
    rfl

/-- Outside CONFIG a taken CLEAR_HOLD of another source than STORM is refused. -/
theorem execClearHold_of_other {source : Byte} {s : State} (hport : s.port.phase = .noTransaction)
    (hpart : s.part ≠ .config) (hsource : source ≠ 0) :
    execClearHold source s = .next (s.answering [15]) := by
  unfold execClearHold
  rw [portCommand_taken _ hport, if_neg (fun h => hsource ((ofCode_eq_storm_iff source).1 h))]
  split
  · contradiction
  all_goals rfl

/-- Outside CONFIG a taken CLEAR_HOLD of STORM is answered OK. -/
theorem execClearHold_of_storm {s : State} (hport : s.port.phase = .noTransaction)
    (hpart : s.part ≠ .config) : execClearHold 0 s = .next (answerOk (clearStorm s)) := by
  refine portCommand_ok hport ?_
  rw [if_pos ((ofCode_eq_storm_iff 0).2 rfl)]
  split
  · contradiction
  all_goals rfl

/-! ### The reading commands -/

theorem window_bytes_getLast? (now : Nat) (w : Window) :
    (w.bytes now).getLast? = some (if min w.openTime (2 ^ 40 - 1) ≤ now then 0 else 1) := by
  unfold Window.bytes byteOf
  rw [List.getLast?_concat]
  by_cases hopen : min w.openTime (2 ^ 40 - 1) ≤ now
  · have hopen' : heldTime w.openTime ≤ now := hopen
    rw [if_pos hopen, if_pos hopen']
    rfl
  · have hopen' : ¬heldTime w.openTime ≤ now := hopen
    rw [if_neg hopen, if_neg hopen']
    rfl

theorem FaultKind.index_lt (k : FaultKind) : k.index < 10 := by cases k <;> decide

/-- The kinds left by a CLEAR_FAULTS (R183). -/
theorem hasKind_removed (status : BitVec 10) (kinds : W16) (k : FaultKind) :
    hasKind (status &&& ~~~(kinds.truncate 10)) k =
      (hasKind status k && !kinds.getLsbD k.index) := by
  unfold hasKind
  simp [k.index_lt]

end Sys2Proof.Machine

section
open Sys2Proof Sys2Proof.Machine

/-- Settles O40: the guard's rule is the report of its source, or nothing. -/
theorem guardAfterStartReports : Obligations.GuardAfterStartReports := by
  unfold Obligations.GuardAfterStartReports
  intro s
  have hexec : exec .guardAfterStart s = .next (guardRise s) := rfl
  rw [hexec]
  unfold guardRise
  refine ⟨fun hpart hhold hcount hclear => ?_, fun h => ?_⟩
  · rw [if_pos ⟨hhold, hcount⟩]
    exact ⟨_, rfl, reportSet_sourceSet hpart hclear⟩
  · by_cases hrise : s.cfg.fullPolicy = .hold ∧ 15 ≤ s.log.records.length
    · rw [if_pos hrise]
      rcases h with hconfig | hdrop | hfew | hset
      · rw [reportSet_of_config hconfig]
      · exact absurd (hrise.1.symm.trans hdrop) nofun
      · exact absurd hrise.2 (by omega)
      · rw [reportSet_of_set (src := .guard) hset]
    · rw [if_neg hrise]

/-- Settles O43: both commands answer their records and nothing else changes; a window's last byte is
its OPEN or PENDING mark. -/
theorem readsReturnTables : Obligations.ReadsReturnTables := by
  unfold Obligations.ReadsReturnTables
  intro first s hport
  exact ⟨portCommand_taken _ hport, fun e _ => length_neighbourBytes e, portCommand_taken _ hport,
    fun w _ => ⟨length_windowBytes s.now w, window_bytes_getLast? s.now w⟩⟩

/-- Settles O44: the recorder alone changes, kind by kind. -/
theorem clearFaultsRemovesKinds : Obligations.ClearFaultsRemovesKinds := by
  unfold Obligations.ClearFaultsRemovesKinds
  intro kinds s hport
  exact ⟨_, portCommand_taken _ hport, rfl, hasKind_removed s.recorder.status kinds, rfl⟩

/-- Settles O34: in MOVING a held set gives nothing up, so the fault is the recorder's and HALT's
alone. -/
theorem overrunRaisesFault : Obligations.OverrunRaisesFault := by
  unfold Obligations.OverrunRaisesFault
  intro s
  have hexec : exec .overrunExpiry s = execOverrunExpiry s := rfl
  rw [hexec]
  unfold execOverrunExpiry
  refine ⟨fun hnot => ?_, fun g hreached hstate hgrant hpart => ?_⟩
  · have hnot' : ¬Timer.due s.engine.overrun s.now = true := fun h => hnot ((due_iff _ _).1 h)
    split
    · rw [if_neg hnot']
    · rfl
  · rw [hstate, hgrant]
    dsimp only
    rw [if_pos ((due_iff _ _).2 hreached)]
    congr 1
    have hmoving : (s.modEngine fun e => { e with overrun := none }).engine.state = .moving := hstate
    rw [raiseFault_of_steady (s := s.modEngine fun e => { e with overrun := none }) hpart
      (by rw [hmoving]; nofun) (by rw [hmoving]; exact fun h => nomatch h.1)]
    rfl

/-- Settles O13: the record goes stale, and the report of WIND with the fault that follows is one
update on which the engine acts once. -/
theorem windGoesStale : Obligations.WindGoesStale := by
  unfold Obligations.WindGoesStale
  intro s
  have hexec : exec .windStalenessExpiry s = execWindStalenessExpiry s := rfl
  rw [hexec]
  unfold execWindStalenessExpiry
  refine ⟨fun hnot => ?_, fun hreached hpart hclear => ?_⟩
  · rw [if_neg fun h => hnot ((due_iff _ _).1 h)]
  · rw [if_pos ((due_iff _ _).2 hreached)]
    let stale := s.modWind fun w => { w with condition := .stale, staleness := none }
    refine ⟨_, rfl, ?_⟩
    rw [raiseFault_reportSet (s := stale) (src := .wind) hpart hclear]
    have heq := heldEffect_eq stale
    refine ⟨?_, ?_, rfl, rfl, heldEffect_takesEffect stale, rfl⟩
    · rw [heq]
      rfl
    · rw [heq]
      rfl

/-- Settles O36: the three commands are the reports of SOFT set, SOFT clear and HALT clear on the
answered state. -/
theorem holdReleaseResume : Obligations.HoldReleaseResume := by
  unfold Obligations.HoldReleaseResume
  intro s hport hpart
  have hhold : exec .hold s = _ := execHold_of_not_config hport hpart
  have hrelease : exec .release s = _ := execRelease_of_not_config hport hpart
  refine ⟨fun hsoft => ?_, fun hsoft => ?_, fun hsoft => ?_, fun hsoft => ?_,
    execResume_of_pending hport hpart, fun hnone => ?_⟩
  · rw [hhold, reportSet_of_set (s := s.answering [0]) (src := .soft) hsoft]
  · have hset : SourceSet (s.answering [0]) (reportSet .soft (s.answering [0])) .soft :=
      reportSet_sourceSet hpart hsoft
    exact ⟨_, hhold, (keeps_reportSet .soft _).port, holds_of_sourceSet hset, hset⟩
  · rw [hrelease, reportClear_of_clear (s := s.answering [0]) (src := .soft) hsoft]
  · exact ⟨_, hrelease, (keeps_reportClear .soft _).port,
      get_reportClear_same (s := s.answering [0]) (src := .soft) hpart nofun nofun,
      (reportClear_sourceCleared (s := s.answering [0]) (src := .soft) hpart hsoft).1⟩
  · have hresume : exec .resume s = _ := execResume_of_none hport hpart hnone
    refine ⟨fun hhalt => ?_, fun hhalt => ?_⟩
    · rw [hresume, reportClear_of_clear (s := s.answering [0]) (src := .halt) hhalt]
    · exact ⟨_, hresume, (keeps_reportClear .halt _).port,
        (reportClear_sourceCleared (s := s.answering [0]) (src := .halt) hpart hhalt).1,
        fun r rest hq hstate hstays =>
          holds_reportClear_of_stays (s := s.answering [0]) hpart hhalt hq hstate hstays⟩

/-- Settles O37: a level sense that finds the line active, or a clear latch, leaves all as it was; else
the latch is cleared and the source reported clear. -/
theorem clearHoldStorm : Obligations.ClearHoldStorm := by
  unfold Obligations.ClearHoldStorm
  intro source s hport hpart
  refine ⟨execClearHold_of_other hport hpart, ?_, ?_, ?_⟩
  · rintro rfl hlatch
    refine (execClearHold_of_storm hport hpart).trans ?_
    unfold clearStorm
    rw [if_pos (.inl hlatch)]
    rfl
  · rintro rfl hfinal hactive
    refine (execClearHold_of_storm hport hpart).trans ?_
    unfold clearStorm
    rw [if_pos (.inr ⟨(linesObserved_iff s).2 ⟨hpart, hfinal⟩, (stormActive_iff s).2 hactive⟩)]
    rfl
  · rintro rfl hlatch hstorm hhigh hlow
    have hquiet : ¬stormActive s = true := fun h => by
      rcases (stormActive_iff s).1 h with ⟨h1, h2⟩ | ⟨h1, h2⟩
      · exact absurd ((hhigh h1).symm.trans h2) nofun
      · exact absurd ((hlow h1).symm.trans h2) nofun
    let cleared : State := { s.answering [0] with holds := { s.holds with stormLatch := false } }
    have hclear : answerOk (clearStorm s) = reportClear .storm cleared := by
      unfold clearStorm
      rw [if_neg (by rw [hlatch]; rintro (h | h); exacts [(nomatch h), hquiet h.2])]
      exact (reportClear_modPort (fun _ => ⟨.taken, [0]⟩) .storm _).symm
    refine ⟨_, (execClearHold_of_storm hport hpart).trans (by rw [hclear]),
      (keeps_reportClear .storm cleared).port, (sourcesKept_reportClear .storm cleared).stormLatch,
      get_reportClear_same (s := cleared) (src := .storm) hpart nofun nofun,
      (reportClear_sourceCleared (s := cleared) (src := .storm) hpart hstorm).1⟩

/-- Settles O38: a change that the observed sense looks for latches STORM and reports it set; any other
changes the level alone. -/
theorem stormLineSetsLatch : Obligations.StormLineSetsLatch := by
  unfold Obligations.StormLineSetsLatch
  intro high s
  have hexec : exec (.stormLineEvent high) s = execStormLineEvent high s := rfl
  rw [hexec]
  unfold execStormLineEvent
  have hsets : (linesObserved s && stormSets s.cfg.stormSense high) = true ↔
      s.part ≠ .config ∧ s.link.final = .none ∧
        (high = true ↔ (s.cfg.stormSense = .high ∨ s.cfg.stormSense = .rising)) := by
    rw [Bool.and_eq_true, linesObserved_iff, stormSets_iff, and_assoc]
  refine ⟨fun hsame => ?_, fun hne hno => ?_, fun hne hyes => ?_⟩
  · rw [if_pos hsame]
  · rw [if_neg hne, if_neg (fun h => hno (hsets.1 h))]
    rfl
  · rw [if_neg hne, if_pos (hsets.2 hyes)]
    let latched : State := { s with
      pins := { s.pins with storm := high }, holds := { s.holds with stormLatch := true } }
    refine ⟨reportSet .storm latched, rfl, (sourcesKept_reportSet .storm latched).stormLatch,
      get_reportSet_same .storm (s := latched) hyes.1 nofun nofun, fun hset => ?_, fun hclear => ?_⟩
    · exact reportSet_of_set (s := latched) (src := .storm) hset
    · exact reportSet_sourceSet (s := latched) hyes.1 hclear

end
end

section
/-! SUPPORT. What is read of the map (R103 to R107), what the head is judged by (R106, R121, R124,
R129), and the counts (R66, R68). -/

namespace Sys2Proof.Machine

/-! ### Bins -/

/-- An index is not beyond the first match exactly when nothing before it matches. -/
theorem le_findIdx_iff {α : Type} {p : α → Bool} {l : List α} {n : Nat} (hn : n ≤ l.length) :
    n ≤ l.findIdx p ↔ ∀ k (hk : k < n), p (l[k]'(by omega)) = false := by
  constructor
  · intro h k hk
    exact List.not_of_lt_findIdx (by omega)
  · intro h
    by_contra hlt
    rw [not_le] at hlt
    have hmatch := List.findIdx_getElem (p := p) (xs := l) (w := by omega)
    rw [h _ hlt] at hmatch
    exact absurd hmatch Bool.false_ne_true

theorem runEnd_cons (b0 : Bin) (rest : List Bin) :
    runEnd (b0 :: rest) = 1 + rest.findIdx fun b => decide (b ≠ b0) := rfl

/-- A run of n bins equal to bin 0 is what run-end allows (R104). -/
theorem le_runEnd_iff {bins : List Bin} {n : Nat} (hn : n ≤ bins.length) :
    n ≤ runEnd bins ↔ ∀ k, k < n → bins[k]? = bins[0]? := by
  cases bins with
  | nil =>
    have : n = 0 := by simpa using hn
    subst this
    simp
  | cons b0 rest =>
    cases n with
    | zero => simp
    | succ n =>
      have hn' : n ≤ rest.length := by simpa using hn
      have hrun : n + 1 ≤ runEnd (b0 :: rest) ↔
          n ≤ rest.findIdx fun b => decide (b ≠ b0) := by
        rw [runEnd_cons]
        omega
      rw [hrun, le_findIdx_iff hn']
      constructor
      · intro h k hk
        cases k with
        | zero => rfl
        | succ k =>
          have hlt : k < rest.length := by omega
          simpa [hlt] using h k (by omega)
      · intro h k hk
        have hlt : k < rest.length := by omega
        simpa [hlt] using h (k + 1) (by omega)

theorem runEnd_le_length (bins : List Bin) : runEnd bins ≤ bins.length := by
  cases bins with
  | nil => exact le_rfl
  | cons b0 rest =>
    have := List.findIdx_le_length (p := fun b => decide (b ≠ b0)) (xs := rest)
    rw [runEnd_cons, List.length_cons]
    omega

/-- first-clear: only BUSY bins before it, and it is CLEAR if it is a bin (R103). -/
theorem firstClear_spec {bins : List Bin} (hlen : bins.length = 32) :
    firstClear bins ≤ 32 ∧ (∀ k, k < firstClear bins → bins[k]? = some .busy) ∧
      (firstClear bins < 32 → bins[firstClear bins]? = some .clear) := by
  unfold firstClear
  have hle := List.findIdx_le_length (p := fun b => decide (b = Bin.clear)) (xs := bins)
  refine ⟨hlen ▸ hle, fun k hk => ?_, fun hlt => ?_⟩
  · have hbin := (le_findIdx_iff hle).1 le_rfl k hk
    have hk' : k < bins.length := by omega
    rw [List.getElem?_eq_getElem hk']
    cases hb : bins[k] with
    | busy => rfl
    | clear => rw [hb] at hbin; exact absurd hbin (by decide)
  · have hw : bins.findIdx (fun b => decide (b = Bin.clear)) < bins.length := hlen ▸ hlt
    have hbin := List.findIdx_getElem (w := hw)
    rw [List.getElem?_eq_getElem hw, of_decide_eq_true hbin]

/-- run-end: the bins before it are as bin 0, and it differs if it is a bin (R104). -/
theorem runEnd_spec {bins : List Bin} (hlen : bins.length = 32) :
    1 ≤ runEnd bins ∧ runEnd bins ≤ 32 ∧
      (∀ k, k < runEnd bins → bins[k]? = bins[0]?) ∧
      (runEnd bins < 32 → bins[runEnd bins]? ≠ bins[0]?) := by
  have hle := runEnd_le_length bins
  have hbefore := (le_runEnd_iff hle).1 le_rfl
  refine ⟨(le_runEnd_iff (by omega)).2 fun k hk => ?_, hlen ▸ hle, hbefore, fun hlt heq => ?_⟩
  · rw [Nat.lt_one_iff.1 hk]
  · have hmore : runEnd bins + 1 ≤ runEnd bins := by
      refine (le_runEnd_iff (by omega)).2 fun k hk => ?_
      rcases Nat.lt_or_ge k (runEnd bins) with hk' | hk'
      · exact hbefore k hk'
      · have : k = runEnd bins := by omega
        rw [this, heq]
    omega

/-- The quiet condition for a run length: bin 0 and the run CLEAR (R107). -/
theorem quietFor_iff {bins : List Bin} {n : Nat} (hn : n ≤ bins.length) :
    quietFor n bins = true ↔
      bins[0]? = some .clear ∧ ∀ k, k < n → bins[k]? = some .clear := by
  unfold quietFor
  rw [Bool.and_eq_true, decide_eq_true_eq, decide_eq_true_eq, le_runEnd_iff hn,
    List.head?_eq_getElem?]
  constructor
  · rintro ⟨h0, hrun⟩
    exact ⟨h0, fun k hk => (hrun k hk).trans h0⟩
  · rintro ⟨h0, hrun⟩
    exact ⟨h0, fun k hk => (hrun k hk).trans h0.symm⟩

/-- A CLEAR run of n bins begins at bin i. -/
def RunFits (bins : List Bin) (n i : Nat) : Prop :=
  i + n ≤ 32 ∧ ∀ k, k < n → bins[i + k]? = some .clear

theorem runFits_iff {bins : List Bin} (hlen : bins.length = 32) (n i : Nat) :
    (decide (i + n ≤ 32) && ((bins.drop i).take n).all fun b => decide (b = .clear)) = true ↔
      RunFits bins n i := by
  unfold RunFits
  rw [Bool.and_eq_true, decide_eq_true_eq, List.all_eq_true]
  refine and_congr_right fun hin => ?_
  constructor
  · intro h k hk
    have hlt : i + k < bins.length := by omega
    have hmem : bins[i + k] ∈ (bins.drop i).take n := by
      rw [List.mem_iff_getElem?]
      exact ⟨k, by rw [List.getElem?_take, if_pos hk, List.getElem?_drop,
        List.getElem?_eq_getElem hlt]⟩
    rw [List.getElem?_eq_getElem hlt, of_decide_eq_true (h _ hmem)]
  · intro h b hb
    obtain ⟨k, hk⟩ := List.mem_iff_getElem?.1 hb
    rw [List.getElem?_take] at hk
    split at hk
    · next hlt =>
      rw [List.getElem?_drop, h k hlt] at hk
      exact decide_eq_true (Option.some.inj hk).symm
    · cases hk

/-- next-opportunity: the lowest start of a CLEAR run, or 32 (R105). -/
theorem nextOpportunity_spec {bins : List Bin} (hlen : bins.length = 32) (n : Nat) :
    (∀ i, i < nextOpportunity n bins → ¬RunFits bins n i) ∧
      (RunFits bins n (nextOpportunity n bins) ∨ nextOpportunity n bins = 32) := by
  unfold nextOpportunity
  cases hfind : (List.range 33).find? fun i =>
      decide (i + n ≤ 32) && ((bins.drop i).take n).all fun b => decide (b = .clear) with
  | none =>
    refine ⟨fun i hi hfits => ?_, .inr rfl⟩
    have hnone := List.find?_range_eq_none.1 hfind i (by simp only [Option.getD_none] at hi; omega)
    rw [(runFits_iff hlen n i).2 hfits] at hnone
    exact absurd hnone (by decide)
  | some i =>
    obtain ⟨hi, -, hbefore⟩ := List.find?_range_eq_some.1 hfind
    refine ⟨fun j hj hfits => ?_, .inl ((runFits_iff hlen n i).1 hi)⟩
    have hnone := hbefore j hj
    rw [(runFits_iff hlen n j).2 hfits] at hnone
    exact absurd hnone (by decide)

/-! ### What the head is judged by -/

theorem eligible_iff (r : Request) : r.eligible = true ↔
    match r.job with
    | .move m => m.expiredPending = false
    | .sweep w => w.unconfirmedPending = false ∧
      match w.pacing with
      | .released => w.confirm = true ∨ (w.stepsDone = 0 ∧ w.afterPark = false)
      | .paced _ _ => w.paceDeadline = none := by
  unfold Request.eligible
  cases r.job with
  | move m => simp
  | sweep w =>
    cases hw : w.pacing with
    | released => simp [SweepJob.stepEligible, hw]
    | paced interval policy => simp [SweepJob.stepEligible, hw]

theorem waived_iff (now : Nat) (r : Request) :
    r.waived now = true ↔ ∃ m, r.job = .move m ∧ Reached m.waiveTime now := by
  unfold Request.waived
  cases r.job with
  | move m => simp only [due_iff, Job.move.injEq, exists_eq_left']
  | sweep w => simp

theorem quietMet_iff {s : State} {r : Request} (hlen : s.quietMap.bins.length = 32) :
    quietMet s r = true ↔
      (∃ m, r.job = .move m ∧ Reached m.waiveTime s.now) ∨
        (s.quietMap.bins[0]? = some .clear ∧
          ∀ k, k < runLength s.cfg s.engine.offset (requestTarget s.cfg s.engine.offset r) →
            s.quietMap.bins[k]? = some .clear) := by
  unfold quietMet
  have hrun : runLength s.cfg s.engine.offset (requestTarget s.cfg s.engine.offset r) ≤
      s.quietMap.bins.length := hlen ▸ min_le_left _ _
  rw [Bool.or_eq_true, waived_iff, quietFor_iff hrun]

/-! ### Counts -/

theorem activeCount_eq (ns : List Neighbour) :
    activeCount ns = (ns.filter fun n =>
      decide (n.inRadius = true ∧ (n.phase = .committed ∨ n.phase = .moving))).length := by
  unfold activeCount
  rw [List.countP_eq_length_filter]
  congr 2
  funext n
  unfold Neighbour.active
  rw [Bool.decide_and, Bool.decide_eq_true]

theorem outrankingCountOf_eq (cls : Cls) (age station : Nat) (ns : List Neighbour) :
    outrankingCountOf cls age station ns = (ns.filter fun n =>
      decide (n.inRadius = true ∧ n.phase = .intent ∧
        ((n.cls = .priority ∧ cls = .normal) ∨
          (n.cls = cls ∧
            (age < n.claimAge ∨ (n.claimAge = age ∧ n.station < station)))))).length := by
  unfold outrankingCountOf
  rw [List.countP_eq_length_filter]
  congr 2
  funext n
  unfold outranks
  rw [Bool.decide_and, Bool.decide_and, Bool.decide_eq_true, Bool.and_assoc]

/-! ### The head after its grant is given back -/

/-- What the engine holds of a grant, and its timers outside the contest, are as before. -/
structure SameGrant (s t : State) : Prop where
  grant : t.engine.grant = s.engine.grant
  lapsedTag : t.engine.lapsedTag = s.engine.lapsedTag
  startTimeout : t.engine.startTimeout = s.engine.startTimeout
  overrun : t.engine.overrun = s.engine.overrun
  settle : t.engine.settle = s.engine.settle
  move : t.builder.move = s.builder.move

theorem SameGrant.refl (s : State) : SameGrant s s := ⟨rfl, rfl, rfl, rfl, rfl, rfl⟩

theorem SameGrant.trans {s t u : State} (h : SameGrant s t) (k : SameGrant t u) : SameGrant s u :=
  ⟨k.grant.trans h.grant, k.lapsedTag.trans h.lapsedTag, k.startTimeout.trans h.startTimeout,
    k.overrun.trans h.overrun, k.settle.trans h.settle, k.move.trans h.move⟩

theorem SameGrant.of_engine {s t : State} (he : t.engine = s.engine)
    (hb : t.builder = s.builder) : SameGrant s t :=
  ⟨by rw [he], by rw [he], by rw [he], by rw [he], by rw [he], by rw [hb]⟩

theorem heldEffect_builder (s : State) : (heldEffect s).builder = s.builder := by
  rw [heldEffect_eq]

theorem reportSet_builder (src : HoldSource) (s : State) :
    (reportSet src s).builder = s.builder := by
  unfold reportSet
  split
  · rfl
  · exact heldEffect_builder _

theorem raiseFault_builder (k : FaultKind) (ctx : FaultContext) (s : State) :
    (raiseFault k ctx s).builder = s.builder := by
  unfold raiseFault
  dsimp only
  split
  · rfl
  · split
    · exact reportSet_builder _ _
    · rfl

theorem guardRise_builder (s : State) : (guardRise s).builder = s.builder := by
  unfold guardRise
  split
  · exact reportSet_builder _ _
  · rfl

theorem offer_builder (r : OutcomeRecord) (s : State) : (offer r s).builder = s.builder := by
  unfold offer
  split
  · rw [guardRise_builder, raiseFault_builder]
  · split
    · rw [guardRise_builder, raiseFault_builder]
      rfl
    · rw [guardRise_builder]
      rfl

theorem sameGrant_completeRequest {s : State} (r : Request) (o : OutcomeCode) (h : Steady s) :
    SameGrant s (completeRequest r o s) :=
  .of_engine (completeRequest_work r o h).1 (offer_builder _ _)

theorem sameGrant_announce (s : State) : SameGrant s (announce s) := .of_engine rfl rfl

theorem sameGrant_takeHead (s : State) : SameGrant s (takeHead s) := by
  unfold takeHead
  split <;> exact ⟨rfl, rfl, rfl, rfl, rfl, rfl⟩

theorem sameGrant_evaluateN (n : Nat) (s : State) : SameGrant s (evaluateN n s) := by
  induction n generalizing s with
  | zero => exact .refl s
  | succ n ih =>
    unfold evaluateN
    split
    · next hstate _ =>
      split
      · exact .refl s
      · have hsteady : Steady s := steady_of_state hstate nofun nofun
        exact ((sameGrant_completeRequest _ _ hsteady).trans (sameGrant_takeHead _)).trans (ih _)
      · exact ⟨rfl, rfl, rfl, rfl, rfl, rfl⟩
    · exact .refl s

theorem sameGrant_evaluate (s : State) : SameGrant s (evaluate s) := sameGrant_evaluateN _ s

end Sys2Proof.Machine

section
open Sys2Proof Sys2Proof.Machine

/-- Settles O25: the yield pause's expiry is the head's evaluation, and each thing it reads is the
rule that the claim writes out. -/
theorem waitingHeadTests : Obligations.WaitingHeadTests := by
  unfold Obligations.WaitingHeadTests
  refine ⟨fun s => ?_, fun r s => ⟨?_, eligible_iff r, quietMet_iff⟩, activeCount_eq⟩
  · have hexec : exec .yieldPauseExpiry s = execYieldPauseExpiry s := rfl
    rw [hexec]
    unfold execYieldPauseExpiry
    refine ⟨fun hnot => ?_, fun hreached => ?_⟩
    · rw [if_neg fun h => hnot ((due_iff _ _).1 h)]
    · rw [if_pos ((due_iff _ _).2 hreached)]
      let resumed := s.modEngine fun e => { e with yieldPause := none }
      exact ⟨evaluate resumed, rfl, evaluate_of_ne (s := resumed), evaluate_nil (s := resumed),
        fun r rest hq hstate => evaluate_headEvaluated (s := resumed) hstate hq⟩
  · unfold requestTarget
    cases r.job <;> rfl

/-- Settles O31: without the echo the marker alone is set; with it the commit test is made, which
reads neither the marker nor the timer. -/
theorem holdOffExpiryCommits : Obligations.HoldOffExpiryCommits := by
  unfold Obligations.HoldOffExpiryCommits
  refine ⟨fun r rest s => ?_, outrankingCountOf_eq⟩
  have hexec : exec .holdOffExpiry s = execHoldOffExpiry s := rfl
  rw [hexec]
  unfold execHoldOffExpiry
  refine ⟨fun hnot => ?_, fun hreached hstate hq => ?_⟩
  · rw [if_neg fun h => hnot ((due_iff _ _).1 h.1)]
  · rw [if_pos ⟨(due_iff _ _).2 hreached, hstate⟩]
    refine ⟨fun hecho => ?_, fun hecho => ?_⟩
    · rw [hecho]
      rfl
    · rw [hecho]
      exact ⟨_, rfl, commitTest_commitTested
        (s := s.modEngine fun e => { e with expired := true, holdOff := none }) hstate hq⟩

/-- Settles O35: the grant is given back, the front entry taken or IDLE entered, IDLE announced, and
then the head evaluated. -/
theorem settleExpiryTakesNextHead : Obligations.SettleExpiryTakesNextHead := by
  unfold Obligations.SettleExpiryTakesNextHead
  intro s
  have hexec : exec .settleExpiry s = execSettleExpiry s := rfl
  rw [hexec]
  unfold execSettleExpiry
  refine ⟨fun hnot => ?_, fun hreached hstate => ?_⟩
  · rw [if_neg fun h => hnot ((due_iff _ _).1 h.1)]
  · rw [if_pos ⟨(due_iff _ _).2 hreached, hstate⟩]
    let free := s.modEngine fun e => { e with settle := none, grant := none }
    have hsame : SameGrant free (endSettling s) :=
      ((sameGrant_takeHead free).trans (sameGrant_announce _)).trans (sameGrant_evaluate _)
    refine ⟨endSettling s, rfl, hsame.grant, hsame.settle, fun hq => ?_, fun r rest hq => ?_⟩
    · have hidle : takeHead free = { s with
          engine := { s.engine with
            state := .idle, work := .none, grant := none, settle := none } } := by
        unfold takeHead
        rw [show free.queue = [] from hq]
        rfl
      have hend : endSettling s = announce (takeHead free) :=
        evaluate_nil (s := announce (takeHead free)) (by rw [hidle]; exact hq)
      rw [hend, hidle]
      exact ⟨announce_idle rfl rfl rfl, rfl⟩
    · let taken : State := { s with
        queue := { r with
          position := .waiting, waitStart := some (r.waitStart.getD s.now) } :: rest
        engine := { s.engine with
          state := .waiting, work := .request, grant := none, settle := none } }
      have htaken : takeHead free = taken := by
        unfold takeHead
        rw [show free.queue = r :: rest from hq]
        rfl
      have hend : endSettling s = evaluate (announce taken) := by
        rw [← htaken]
        rfl
      rw [hend]
      exact ⟨(announce taken).link, announce_idle (s := taken) rfl rfl rfl,
        evaluate_headEvaluated (s := announce taken) rfl rfl⟩

end
end

section
/-! SUPPORT. The transmit stages and the link's timers (R20 to R33): what each event does, and that
the engine's writes leave a stage in progress alone. -/

namespace Sys2Proof.Machine

/-! ### The engine and the transmit stage -/

/-- Of two links the second stands in the same link state; and the transmitter is as in the first,
unless the first could begin an attempt, in READY with the stage IDLE (R33). -/
structure StageKept (l m : Link) : Prop where
  trail : m.trail = l.trail
  stage : ¬(l.trail.current = .ready ∧ l.stage = .idle) → m.stage = l.stage ∧ m.jitter = l.jitter

theorem StageKept.refl (l : Link) : StageKept l l := ⟨rfl, fun _ => ⟨rfl, rfl⟩⟩

theorem StageKept.trans {l m n : Link} (h : StageKept l m) (k : StageKept m n) :
    StageKept l n := by
  refine ⟨k.trail.trans h.trail, fun hl => ?_⟩
  obtain ⟨hstage, hjitter⟩ := h.stage hl
  obtain ⟨kstage, kjitter⟩ := k.stage (by rwa [h.trail, hstage])
  exact ⟨kstage.trans hstage, kjitter.trans hjitter⟩

theorem stageKept_write (lane urgent : Bool) (e : Edition) (l : Link) :
    StageKept l (l.write lane urgent e) := by
  refine ⟨(l.write_keeps lane urgent e).1, fun hl => ?_⟩
  unfold Link.write
  dsimp only
  rw [if_neg]
  · exact ⟨rfl, rfl⟩
  · simp only [Bool.and_eq_true, decide_eq_true_eq]
    exact fun h => hl ⟨h.1.2, h.2⟩

theorem stageKept_announce {l : Link} {s : State} (h : s.link = l) :
    StageKept l (announce s).link := by
  subst h
  have hlink : (announce s).link = s.link.announce s.pins.laneActive (content s) := rfl
  rw [hlink]
  unfold Link.announce
  split
  · exact stageKept_write _ _ _ _
  · split
    · exact stageKept_write _ _ _ _
    · split
      · exact stageKept_write _ _ _ _
      · exact .refl _

theorem stageKept_heldEffect (s : State) : StageKept s.link (heldEffect s).link := by
  unfold heldEffect
  split
  · exact stageKept_announce rfl
  · exact stageKept_announce rfl
  · exact .refl _

theorem stageKept_reportSet (src : HoldSource) (s : State) :
    StageKept s.link (reportSet src s).link := by
  unfold reportSet
  split
  · exact .refl _
  · exact stageKept_heldEffect (latchHold (s.modHolds fun h => h.put src true))

theorem stageKept_raiseFault (k : FaultKind) (ctx : FaultContext) (s : State) :
    StageKept s.link (raiseFault k ctx s).link := by
  unfold raiseFault
  dsimp only
  split
  · exact .refl _
  · split
    · exact stageKept_reportSet .halt (s.modRecorder _)
    · exact .refl _

theorem stageKept_guardRise (s : State) : StageKept s.link (guardRise s).link := by
  unfold guardRise
  split
  · exact stageKept_reportSet _ _
  · exact .refl _

theorem stageKept_offer (r : OutcomeRecord) (s : State) : StageKept s.link (offer r s).link := by
  unfold offer
  split
  · exact (stageKept_raiseFault _ _ s).trans (stageKept_guardRise _)
  · split
    · exact (stageKept_raiseFault _ _ (s.modLog _)).trans (stageKept_guardRise _)
    · exact stageKept_guardRise (s.modLog _)

theorem stageKept_completeRequest (r : Request) (o : OutcomeCode) (s : State) :
    StageKept s.link (completeRequest r o s).link := stageKept_offer _ (s.modQueue (removeTag r.tag))

theorem takeHead_link (s : State) : (takeHead s).link = s.link := by
  unfold takeHead
  split <;> rfl

theorem stageKept_takeHead (s : State) : StageKept s.link (takeHead s).link := by
  rw [takeHead_link]
  exact .refl _

theorem stageKept_evaluateN (n : Nat) (s : State) : StageKept s.link (evaluateN n s).link := by
  induction n generalizing s with
  | zero => exact .refl _
  | succ n ih =>
    unfold evaluateN
    split
    · split
      · exact .refl _
      · exact ((stageKept_completeRequest _ _ s).trans (stageKept_takeHead _)).trans (ih _)
      · exact stageKept_announce rfl
    · exact .refl _

theorem stageKept_evaluate (s : State) : StageKept s.link (evaluate s).link :=
  stageKept_evaluateN _ s

theorem stageKept_withdraw_evaluate (s : State) :
    StageKept s.link (evaluate (withdraw s)).link :=
  StageKept.trans (m := (withdraw s).link) (stageKept_announce rfl) (stageKept_evaluate _)

theorem stageKept_yieldIntent (s : State) : StageKept s.link (yieldIntent s).link := by
  unfold yieldIntent
  dsimp only
  generalize hy : announce _ = y
  have hlink : StageKept s.link y.link := hy ▸ stageKept_announce rfl
  split
  · exact hlink
  · split
    · exact hlink.trans (((stageKept_completeRequest _ _ _).trans (stageKept_takeHead _)).trans
        (stageKept_evaluate _))
    · exact hlink

theorem stageKept_enterGranted (s : State) : StageKept s.link (enterGranted s).link := by
  unfold enterGranted
  split
  · exact .refl _
  · exact stageKept_announce rfl

theorem stageKept_commitTest (s : State) : StageKept s.link (commitTest s).link := by
  unfold commitTest
  split
  · exact stageKept_withdraw_evaluate s
  · split
    · exact stageKept_withdraw_evaluate s
    · split
      · exact stageKept_yieldIntent s
      · exact stageKept_enterGranted s

theorem stageKept_evalPoint (atIntake : Bool) (s : State) :
    StageKept s.link (evalPoint atIntake s).link := by
  unfold evalPoint
  split
  · exact stageKept_evaluate s
  · unfold intentTests
    split
    · exact stageKept_withdraw_evaluate s
    · split
      · exact stageKept_withdraw_evaluate s
      · split
        · exact stageKept_yieldIntent s
        · split
          · exact stageKept_commitTest s
          · exact .refl _
  all_goals exact .refl _

theorem stageKept_reportClear (src : HoldSource) (s : State) :
    StageKept s.link (reportClear src s).link := by
  unfold reportClear
  split
  · exact .refl _
  · dsimp only
    split
    · exact stageKept_heldEffect (latchHold (s.modHolds fun h => h.put src false))
    · exact stageKept_evalPoint false (latchHold (s.modHolds fun h => h.put src false))

/-! ### Times of a frame -/

theorem timeUntil_eq (now : Nat) (t : Option Nat) : timeUntil now t =
    match t with
    | none => 0
    | some d => min 65535 (min d (2 ^ 40 - 1) - now) := by
  cases t with
  | none => rfl
  | some d => exact min_comm _ _

theorem timeSince_eq (now : Nat) (t : Option Nat) : timeSince now t =
    match t with
    | none => 0
    | some d => min 65535 (now - min d (2 ^ 40 - 1)) := by
  cases t with
  | none => rfl
  | some d => exact min_comm _ _

/-! ### Link states -/

theorem receives_iff (l : LinkState) :
    l.receives = true ↔ l = .listen ∨ l = .ready ∨ l = .check := by
  cases l <;> simp [LinkState.receives]

theorem Trail.push_of_ne {n : LinkState} {t : Trail} (h : t.current ≠ n) :
    t.push n = ⟨n, t.current, t.first, t.second⟩ := if_neg h

/-- The link at the entry to READY, before LINK is reported clear (R20, R23). -/
def readyLink (s : State) : Link :=
  let x := s.link.jitter * 25173 + 13849
  { s.link with
    trail := ⟨.ready, s.link.trail.current, s.link.trail.first, s.link.trail.second⟩
    listenTimer := none, checkTimer := none, heardOther := false, collisions := 0
    jitter := if s.pins.laneActive then s.link.jitter else x
    stage := .defer (if s.pins.laneActive then none
      else some (30 + 10 * (x.toNat * 16 / 65536))) }

theorem enterReady_eq {s : State} (h : s.link.trail.current ≠ .ready) :
    enterReady s = reportClear .link { s with link := readyLink s } := by
  have hlink : s.modLink (fun l =>
      { l with
        trail := l.trail.push .ready
        listenTimer := none
        checkTimer := none
        heardOther := false
        collisions := 0 }.beginAttempt s.pins.laneActive) = { s with link := readyLink s } := by
    unfold State.modLink
    dsimp only
    rw [Trail.push_of_ne h]
    unfold readyLink Link.beginAttempt
    cases s.pins.laneActive <;> rfl
  exact congrArg (reportClear .link) hlink

/-- The entry to READY, said once: the link, and the LINK source clear (R20, R23). -/
theorem enterReady_spec {s : State} (h : s.link.trail.current ≠ .ready) :
    let ready := { s with link := readyLink s }
    (enterReady s).link.trail = ready.link.trail ∧ (enterReady s).link.collisions = 0 ∧
      (enterReady s).link.listenTimer = none ∧ (enterReady s).link.checkTimer = none ∧
      (enterReady s).link.stage = ready.link.stage ∧
      (enterReady s).link.jitter = ready.link.jitter ∧
      ((s.part = .config ∨ s.holds.link = false) → enterReady s = ready) ∧
      (s.part ≠ .config → s.holds.link = true →
        (enterReady s).holds.link = false ∧ SourceCleared ready (enterReady s) .link) := by
  intro ready
  rw [enterReady_eq h]
  have hkeeps := keeps_reportClear .link ready
  have htimers := hkeeps.linkTimers
  rw [Prod.mk.injEq, Prod.mk.injEq] at htimers
  obtain ⟨hlisten, hcheck, -⟩ := htimers
  obtain ⟨hstage, hjitter⟩ := (stageKept_reportClear .link ready).stage fun hc => nomatch hc.2
  refine ⟨hkeeps.trail, hkeeps.collisions, hlisten, hcheck, hstage, hjitter, fun hno => ?_,
    fun hpart hset => ⟨?_, (reportClear_sourceCleared (s := ready) (src := .link) hpart hset).1⟩⟩
  · have hclear : reportClear .link ready = ready := by
      rcases hno with hconfig | hclear
      · unfold reportClear
        exact if_pos (.inl hconfig)
      · exact reportClear_of_clear (s := ready) (src := .link) hclear
    exact hclear
  · exact get_reportClear_same (s := ready) (src := .link) hpart nofun nofun

end Sys2Proof.Machine

section
open Sys2Proof Sys2Proof.Machine

/-- Settles O49: each event's rule in the stage it belongs to; in any other stage it changes nothing
of the link. -/
theorem transmitStages : Obligations.TransmitStages := by
  unfold Obligations.TransmitStages
  intro s x lane gap attempt upTo since
  have hupTo : ∀ t, upTo t = timeUntil s.now t := fun t => (timeUntil_eq s.now t).symm
  have hsince : ∀ t, since t = timeSince s.now t := fun t => (timeSince_eq s.now t).symm
  have hattempt : s.link.beginAttempt s.pins.laneActive = attempt := by
    unfold Link.beginAttempt
    rfl
  refine ⟨fun e => ?_, fun h => ?_, fun h => ?_, fun h => ?_, fun h => ?_, fun g e h he => ?_,
    fun g h he => ?_, fun h => ?_, fun h => ?_, fun h => ?_, fun h => ?_, fun d h => ?_,
    fun h => ?_, fun hnot => ?_, fun hreached htrail hstage => ?_, fun hreached hno => ?_⟩
  · simp only [hupTo, hsince]
    unfold Edition.frame Edition.timeA Edition.timeB
    cases e.phase with
    | committed => cases e.refs.startTimeout <;> rfl
    | idle => rfl
    | intent => rfl
    | moving => rfl
    | settling => rfl
  · obtain ⟨g, h⟩ := h
    change execLaneActivity s = _
    unfold execLaneActivity
    rw [h]
    rfl
  · change execLaneActivity s = _
    unfold execLaneActivity
    dsimp only
    split
    · next g hg => exact absurd hg (h g)
    all_goals rfl
  · change execLaneQuiet s = _
    unfold execLaneQuiet
    rw [h]
    rfl
  · change execLaneQuiet s = _
    unfold execLaneQuiet
    dsimp only
    split
    · next hg => exact absurd hg h
    all_goals rfl
  · change execGapEnd s = _
    unfold execGapEnd
    rw [h]
    unfold State.modLink Link.enterSend
    rw [he]
    rfl
  · change execGapEnd s = _
    unfold execGapEnd
    rw [h]
    unfold State.modLink Link.enterSend
    rw [he]
  · change execGapEnd s = _
    unfold execGapEnd
    split
    · next g hg => exact absurd hg (h g)
    all_goals rfl
  · change execEndOfTransmission s = _
    unfold execEndOfTransmission
    rw [h]
    rfl
  · change execEndOfTransmission s = _
    unfold execEndOfTransmission
    split
    · next hs => exact absurd hs h
    all_goals rfl
  · change execEchoDeadline s = _
    unfold execEchoDeadline
    split
    · next hs => exact absurd hs h
    all_goals rfl
  · change execBackoffEnd s = _
    unfold execBackoffEnd
    rw [h, ← hattempt]
    rfl
  · change execBackoffEnd s = _
    unfold execBackoffEnd
    split
    · next d hd => exact absurd hd (h d)
    all_goals rfl
  · change execRefreshTimerExpiry s = _
    unfold execRefreshTimerExpiry
    rw [if_neg fun hdue => hnot ((due_iff _ _).1 hdue)]
  · change execRefreshTimerExpiry s = _
    unfold execRefreshTimerExpiry
    rw [if_pos ((due_iff _ _).2 hreached), if_pos ⟨htrail, hstage⟩, ← hattempt]
    unfold State.modLink Link.beginAttempt
    cases s.pins.laneActive <;> rfl
  · change execRefreshTimerExpiry s = _
    unfold execRefreshTimerExpiry
    rw [if_pos ((due_iff _ _).2 hreached), if_neg fun h => hno.elim (· h.1) (· h.2)]
    rfl

/-- Settles O50: both periods end in the entry to READY, or, with no other station heard, in a further
CHECK period. -/
theorem listenAndCheckPeriodsEnd : Obligations.ListenAndCheckPeriodsEnd := by
  unfold Obligations.ListenAndCheckPeriodsEnd
  intro s x ready entersReady
  have hlisten : exec .listenTimerExpiry s = execListenTimerExpiry s := rfl
  have hcheck : exec .checkPeriodExpiry s = execCheckPeriodExpiry s := rfl
  unfold execListenTimerExpiry at hlisten
  unfold execCheckPeriodExpiry at hcheck
  refine ⟨fun hnot => ?_, fun hreached hother => ?_, fun hreached hstate => ?_, fun hnot => ?_,
    fun hreached hother => ?_, fun hreached hstate => ⟨fun hheard => ?_, fun hnone => ?_⟩⟩
  · rw [hlisten, if_neg fun h => hnot ((due_iff _ _).1 h.1)]
  · rw [hlisten, if_neg fun h => hother h.2]
  · rw [if_pos ⟨(due_iff _ _).2 hreached, hstate⟩] at hlisten
    exact ⟨_, hlisten, enterReady_spec (by rw [hstate]; nofun)⟩
  · rw [hcheck, if_neg fun h => hnot ((due_iff _ _).1 h.1)]
  · rw [hcheck, if_neg fun h => hother h.2]
  · rw [if_pos ⟨(due_iff _ _).2 hreached, hstate⟩, if_pos hheard] at hcheck
    exact ⟨_, hcheck, enterReady_spec (by rw [hstate]; nofun)⟩
  · rw [hcheck, if_pos ⟨(due_iff _ _).2 hreached, hstate⟩, hnone, if_neg Bool.false_ne_true,
      ← hnone]
    rfl

end
end

section
/-! SUPPORT. The receive path, the echo check, loss of light and the end of the final announcement
(R17, R18, R21, R30 to R37, R193). -/

namespace Sys2Proof.Machine

/-! ### CONFIG and the final announcement -/

theorem enterConfig_configEntered (s : State) : ConfigEntered s (enterConfig s) := by
  unfold ConfigEntered enterConfig rederive State.modMap
  dsimp only
  rw [deriveBins_nil]
  rfl

/-- The request for the final announcement, said once (R37, R50, R193). -/
theorem requestFinal_finalRequested {s : State} (hidle : phaseOf s.engine.state = .idle) :
    FinalRequested s (requestFinal s) := by
  have he : requestFinal s =
      let e := s.edition .idle .normal 0 s.engine.offset s.engine.offset
      let s' := s.modLink (Link.writeFinal e)
      if s.link.trail.current = .ready then
        match s.link.stage with
        | .send | .echoWait => s'.modLink fun l => { l with final := .awaited }
        | .idle | .defer _ | .backoff _ =>
          s'.modLink fun l =>
            { l.abandon with final := .running }.beginAttempt s.pins.laneActive
      else enterConfig s' := by
    unfold requestFinal
    rw [content_idle hidle]
    rfl
  rw [he]
  refine ⟨fun hready hbusy => ?_, fun hready hbusy => ?_, fun hnot => ?_⟩
  · rw [if_pos hready]
    dsimp only
    split
    · rfl
    · rfl
    all_goals next h => exact absurd hbusy (by rw [h]; rintro (hb | hb) <;> cases hb)
  · rw [if_pos hready, ← Link.beginAttempt_eq]
    dsimp only
    split
    · next h => exact absurd (.inl h) hbusy
    · next h => exact absurd (.inr h) hbusy
    all_goals rfl
  · rw [if_neg hnot]
    exact enterConfig_configEntered _

/-! ### Faults as the receive path raises them -/

theorem raiseFault_recorder (k : FaultKind) (ctx : FaultContext) (s : State) :
    (raiseFault k ctx s).recorder = s.recorder.raised s.cfg s.now k ctx := by
  unfold raiseFault Recorder.raised
  dsimp only
  split
  · rfl
  · split
    · unfold reportSet
      split
      · rfl
      · rw [heldEffect_eq]
        rfl
    · rfl

/-- A fault that sets no source changes the recorder alone. -/
theorem raiseFault_of_recorded {s : State} {k : FaultKind}
    (h : setsHalt s.cfg k = false ∨ s.part = .config ∨ s.holds.halt = true) (ctx : FaultContext) :
    raiseFault k ctx s = { s with recorder := s.recorder.raised s.cfg s.now k ctx } := by
  unfold raiseFault Recorder.raised
  dsimp only
  split
  · rfl
  · next hmask =>
    split
    · next hfatal =>
      refine if_pos ?_
      rcases h with h | h | h
      · unfold setsHalt at h
        simp [hmask, hfatal] at h
      · exact .inl h
      · exact .inr h
    · rfl

/-- A FATAL fault outside CONFIG sets HALT (R182). -/
theorem raiseFault_sourceSet {s : State} {k : FaultKind} (hsets : setsHalt s.cfg k = true)
    (hpart : s.part ≠ .config) (hhalt : s.holds.halt = false) (ctx : FaultContext) :
    SourceSet { s with recorder := s.recorder.raised s.cfg s.now k ctx } (raiseFault k ctx s)
      .halt := by
  unfold setsHalt at hsets
  rw [Bool.and_eq_true, Bool.not_eq_true'] at hsets
  obtain ⟨hmask, hfatal⟩ := hsets
  unfold raiseFault Recorder.raised
  dsimp only
  rw [hmask, hfatal]
  exact reportSet_sourceSet (src := .halt) hpart hhalt

/-! ### The receive path -/

/-- Where the receive path takes no frame, or the sequence is malformed, nothing changes (R17, R18). -/
theorem frameEffect_of_ignored {rx : Received} {s : State}
    (h : s.link.trail.current = .off ∨ s.link.trail.current = .down ∨ s.pins.light = false ∨
      wellFormedFrame rx = none) : frameEffect rx s = s := by
  unfold frameEffect
  split
  · next hreceives =>
    rw [Bool.and_eq_true, receives_iff] at hreceives
    obtain ⟨hstate, hlight⟩ := hreceives
    rcases h with h | h | h | h
    · rw [h] at hstate
      simp at hstate
    · rw [h] at hstate
      simp at hstate
    · rw [h] at hlight
      cases hlight
    · rw [h]
      split
      · next heq => cases heq
      · rfl
  · rfl

/-- A well-formed sequence is delimited. -/
theorem delimited_of_wellFormed {rx : Received} {f : Frame} (h : wellFormedFrame rx = some f) :
    ∃ bytes, rx = .delimited bytes := by
  cases rx with
  | delimited bytes => exact ⟨bytes, rfl⟩
  | _ => cases h

theorem frameEffect_of_wellFormed {bytes : List Byte} {f : Frame} {s : State}
    (hf : wellFormedFrame (.delimited bytes) = some f) (hlight : s.pins.light = true)
    (hoff : s.link.trail.current ≠ .off) (hdown : s.link.trail.current ≠ .down) :
    frameEffect (.delimited bytes) s =
      if f.station = s.cfg.station then ownFrame bytes s else otherFrame f s := by
  have hreceives : s.link.trail.current.receives = true := by
    cases hs : s.link.trail.current <;> first | rfl | exact absurd hs hoff | exact absurd hs hdown
  unfold frameEffect
  rw [hreceives, hlight, hf]
  rfl

/-- An own-number frame in ECHO-WAIT goes to the echo check (R30, R31, R35). -/
theorem ownFrame_of_echoWait {s : State} (hstage : s.link.stage = .echoWait) (bytes : List Byte) :
    ownFrame bytes s = if bytes = s.link.sent then goodEcho s else collision s := by
  unfold ownFrame
  rw [hstage]

theorem ownFrame_of_not_echoWait {s : State} (hstage : s.link.stage ≠ .echoWait)
    (bytes : List Byte) : ownFrame bytes s =
      raiseFault .duplicateStation ⟨some s.cfg.station, none, none⟩ s := by
  unfold ownFrame
  split
  · contradiction
  all_goals rfl

/-! ### Collisions -/

/-- A collision below the eighth draws a back-off (R31). -/
theorem collision_of_few {s : State} (hfinal : s.link.final = .none)
    (hfew : s.link.collisions + 1 < 8) :
    collision s = { s with link := { s.link.abandon with
      collisions := s.link.collisions + 1
      jitter := s.link.jitter * 25173 + 13849
      stage := .backoff (250 * ((s.link.jitter * 25173 + 13849).toNat *
        2 ^ min (s.link.collisions + 1) 5 / 65536)) } } := by
  have hmin : min 8 (s.link.collisions + 1) = s.link.collisions + 1 := by omega
  have hpow : 2 ^ min (s.link.collisions + 1) 5 - 1 + 1 = 2 ^ min (s.link.collisions + 1) 5 :=
    Nat.sub_add_cancel Nat.one_le_two_pow
  unfold collision
  dsimp only
  rw [if_pos hfinal]
  simp only [State.modLink, hmin]
  rw [if_neg (by omega)]
  unfold Link.enterBackoff Link.abandon jitterYield jitterNext
  dsimp only
  rw [hpow]

/-- After the request for the final announcement the end of ECHO-WAIT leads on to its own end (R37). -/
theorem collision_of_final {s : State} (hfinal : s.link.final ≠ .none) : collision s =
    endFinal { s with link := { s.link with collisions := min 8 (s.link.collisions + 1) } } := by
  unfold collision
  exact if_neg hfinal

/-- The frame in progress at the request is followed by the final attempt. -/
theorem endFinal_of_awaited {s : State} (hfinal : s.link.final = .awaited) : endFinal s =
    { s with link := { s.link.abandon with final := .running }.attempting s.pins.laneActive } := by
  unfold endFinal
  rw [hfinal]
  dsimp only
  rw [← Link.beginAttempt_eq]
  rfl

theorem endFinal_of_running {s : State} (hfinal : s.link.final = .running) :
    endFinal s = enterConfig s := by
  unfold endFinal
  rw [hfinal]

/-! ### Good echoes -/

/-- The link whose current edition is confirmed by its echo (R30). -/
def confirmedLink (l : Link) : Link :=
  { l.abandon with collisions := 0, slot := { l.slot with confirmed := true } }

/-- The link whose sent frame was of a replaced edition: the slot's is pending (R30). -/
def replacedLink (l : Link) : Link :=
  { l.abandon with collisions := 0, slot := { l.slot with pending := true } }

/-- The engine takes up a confirmation of its INTENT edition (R140). -/
def HearsEcho (s : State) : Prop :=
  s.engine.state = .intent ∧ s.link.slot.edition.map Edition.phase = some .intent ∧
    s.link.slot.confirmed = false

theorem goodEcho_of_current {s : State} (hfinal : s.link.final = .none)
    (hcurrent : s.link.sentCurrent = true) : goodEcho s =
      if s.link.slot.confirmed then { s with link := confirmedLink s.link }
      else confirmation { s with link := confirmedLink s.link } := by
  unfold goodEcho
  dsimp only
  rw [if_pos hcurrent, if_pos hfinal]
  rfl

theorem goodEcho_of_unheard {s : State} (hfinal : s.link.final = .none)
    (hcurrent : s.link.sentCurrent = true) (hno : ¬HearsEcho s) :
    goodEcho s = { s with link := confirmedLink s.link } := by
  rw [goodEcho_of_current hfinal hcurrent]
  split
  · rfl
  · next hconfirmed =>
    unfold confirmation
    refine if_neg fun h => hno ⟨h.1, h.2, ?_⟩
    simpa using hconfirmed

theorem goodEcho_of_heard {s : State} (hfinal : s.link.final = .none)
    (hcurrent : s.link.sentCurrent = true) (hheard : HearsEcho s) :
    goodEcho s = evalPoint false { s with
      link := confirmedLink s.link, engine := { s.engine with echo := true } } := by
  obtain ⟨hstate, hphase, hconfirmed⟩ := hheard
  rw [goodEcho_of_current hfinal hcurrent, hconfirmed, if_neg Bool.false_ne_true]
  exact if_pos ⟨hstate, hphase⟩

theorem goodEcho_of_replaced {s : State} (hfinal : s.link.final = .none)
    (hold : s.link.sentCurrent = false) : goodEcho s =
      { s with link := (replacedLink s.link).attempting s.pins.laneActive } := by
  unfold goodEcho
  dsimp only
  rw [hold, if_neg Bool.false_ne_true, if_pos hfinal, ← Link.beginAttempt_eq]
  rfl

/-- The link with the slot's edition pending and its attempt not yet ended. -/
def pendingLink (l : Link) : Link :=
  { l with collisions := 0, slot := { l.slot with pending := true } }

theorem goodEcho_of_replaced_final {s : State} (hfinal : s.link.final ≠ .none)
    (hold : s.link.sentCurrent = false) :
    goodEcho s = endFinal { s with link := pendingLink s.link } := by
  unfold goodEcho
  dsimp only
  rw [if_neg (by rw [hold]; exact Bool.false_ne_true), if_neg hfinal]
  rfl

/-- A good echo of the final attempt, outside INTENT, ends in CONFIG (R37). -/
theorem goodEcho_of_running {s : State} (hfinal : s.link.final = .running)
    (hstate : s.engine.state ≠ .intent) :
    ConfigEntered { s with link := { s.link with collisions := 0 } } (goodEcho s) := by
  have hne : s.link.final ≠ .none := by rw [hfinal]; nofun
  cases hcurrent : s.link.sentCurrent with
  | false =>
    rw [goodEcho_of_replaced_final hne hcurrent,
      endFinal_of_running (s := { s with link := pendingLink s.link }) hfinal]
    exact enterConfig_configEntered { s with link := pendingLink s.link }
  | true =>
    have hconfirm : confirmation { s with link := confirmedLink s.link } =
        { s with link := confirmedLink s.link } := if_neg fun h => hstate h.1
    have he : goodEcho s = endFinal (if s.link.slot.confirmed then
        { s with link := confirmedLink s.link }
        else confirmation { s with link := confirmedLink s.link }) := by
      unfold goodEcho
      dsimp only
      rw [if_pos hcurrent, if_neg hne]
      rfl
    rw [he, hconfirm, ite_self,
      endFinal_of_running (s := { s with link := confirmedLink s.link }) hfinal]
    exact enterConfig_configEntered { s with link := confirmedLink s.link }

/-! ### The eighth collision -/

/-- The link at the entry to CHECK, before LINK is reported set (R23, R32). -/
def checkedState (s : State) : State :=
  { s with link := { s.link with
    collisions := 8, stage := .idle, sent := [], sentCurrent := false, refresh := none
    heardOther := false
    trail := ⟨.check, .ready, s.link.trail.first, s.link.trail.second⟩
    checkTimer := some (later s.now (s.cfg.listenMultiple * s.cfg.refreshPeriod)) } }

theorem collision_of_eighth {s : State} (hfinal : s.link.final = .none)
    (hcount : s.link.collisions = 7) (hready : s.link.trail.current = .ready) :
    collision s = raiseFault .echoLoss ⟨none, some s.builder.move, none⟩
      (reportSet .link (checkedState s)) := by
  have hpush : s.link.trail.push .check =
      ⟨.check, .ready, s.link.trail.first, s.link.trail.second⟩ := by
    rw [Trail.push_of_ne (by rw [hready]; nofun), hready]
  unfold collision
  dsimp only
  rw [if_pos hfinal, if_pos (by rw [State.modLink_link, hcount]; rfl)]
  unfold enterCheck State.modLink
  dsimp only
  rw [hcount]
  unfold Link.abandon
  dsimp only
  rw [hpush]
  rfl

/-! ### Loss of light -/

/-- The state at the entry to DOWN, before LINK is reported set (R18, R21). -/
def downState (s : State) : State :=
  { s with link := { s.link with
    trail := ⟨.down, s.link.trail.current, s.link.trail.first, s.link.trail.second⟩
    listenTimer := none, checkTimer := none, refresh := none, signalLoss := none
    stage := .idle, sent := [], sentCurrent := false } }

theorem enterDown_eq {s : State} (h : s.link.trail.current ≠ .down) :
    enterDown s = reportSet .link (downState s) := by
  unfold enterDown State.modLink
  dsimp only
  rw [Trail.push_of_ne h]
  rfl

theorem reportSet_log (src : HoldSource) (s : State) : (reportSet src s).log = s.log := by
  unfold reportSet
  split
  · rfl
  · rw [heldEffect_eq]
    rfl

end Sys2Proof.Machine

section
open Sys2Proof Sys2Proof.Machine

/-- Settles O45: each event by the link state it comes in; the loss of light is the entry to DOWN, and
after the request for the final announcement the entry to OFF and CONFIG on top of it. -/
theorem lightAndSignalLoss : Obligations.LightAndSignalLoss := by
  unfold Obligations.LightAndSignalLoss
  intro s receiving lit
  have hreceives : s.link.trail.current.receives = true ↔ receiving := receives_iff _
  have hdark : exec .lsdDeasserted s = execLsdDeasserted s := rfl
  have hlit : exec .lsdAsserted s = execLsdAsserted s := rfl
  have hloss : exec .signalLossTimerExpiry s = execSignalLossTimerExpiry s := rfl
  unfold execLsdDeasserted at hdark
  unfold execLsdAsserted at hlit
  unfold execSignalLossTimerExpiry at hloss
  refine ⟨fun hl => ?_, fun hl hno => ?_, fun hl hr => ?_, fun hl => ?_, fun hl hoff => ?_,
    fun hl hr => ?_, fun hl hd => ?_, fun hnot => ?_, fun hreached hr hpart => ?_⟩
  · rw [hdark, hl]
    rfl
  · rw [hdark, if_pos hl]
    dsimp only
    rw [if_neg fun h => hno (hreceives.1 h)]
    rfl
  · rw [hdark, if_pos hl]
    dsimp only
    rw [if_pos (hreceives.2 hr)]
    rfl
  · rw [hlit, if_pos hl]
  · rw [hlit, hl, if_neg Bool.false_ne_true, hoff]
    rfl
  · rw [hlit, hl, if_neg Bool.false_ne_true]
    rcases hr with h | h | h <;> rw [h] <;> rfl
  · rw [hlit, hl, if_neg Bool.false_ne_true, hd]
    have hpush : s.link.trail.push .listen =
        ⟨.listen, .down, s.link.trail.first, s.link.trail.second⟩ := by
      rw [Trail.push_of_ne (by rw [hd]; nofun), hd]
    unfold State.modLink Link.enterListen
    dsimp only
    rw [State.modPins_link, hpush]
    rfl
  · rw [hloss, if_neg fun h => hnot ((due_iff _ _).1 h.1)]
  · intro down
    have hne : s.link.trail.current ≠ .down := fun h => by
      have hr' := hreceives.2 hr
      rw [h] at hr'
      cases hr'
    have hdown : enterDown s = reportSet .link down := enterDown_eq hne
    rw [hloss, if_pos ⟨(due_iff _ _).2 hreached, hreceives.2 hr⟩, hdown]
    refine ⟨_, rfl, fun hfinal => ?_, fun hfinal => ?_⟩
    · rw [if_pos hfinal]
      exact ⟨get_reportSet_same .link (s := down) hpart nofun nofun,
        reportSet_of_set (s := down) (src := .link), reportSet_sourceSet (s := down) (src := .link) hpart⟩
    · rw [if_neg hfinal]
      have hkeeps := keeps_reportSet .link down
      refine ⟨rfl, ?_, reportSet_log .link down, hkeeps.offset⟩
      have htrail : (enterConfig (reportSet .link down)).link.trail =
          (reportSet .link down).link.trail.push .off := rfl
      rw [htrail, hkeeps.trail, Trail.push_of_ne (by nofun)]

/-- Settles O46: a frame is ignored, taken in, dropped with RECEIVE-OVERRUN, or raises
DUPLICATE-STATION. -/
theorem framesSorted : Obligations.FramesSorted := by
  unfold Obligations.FramesSorted
  intro rx s
  have hexec : exec (.frameReceived rx) s = .next (frameEffect rx s) := rfl
  rw [hexec]
  refine ⟨fun h => by rw [frameEffect_of_ignored h], fun f hf hlight hoff hdown => ?_⟩
  obtain ⟨bytes, rfl⟩ := delimited_of_wellFormed hf
  rw [frameEffect_of_wellFormed hf hlight hoff hdown]
  intro noted
  refine ⟨fun hother => ?_, fun hown hstage => ?_⟩
  · rw [if_neg hother]
    unfold otherFrame
    dsimp only
    refine ⟨fun hidle hempty => ?_, fun hbusy hfew => ?_, fun hfull => ?_⟩
    · rw [if_neg (by rw [hempty]; decide)]
      have hnoted : { noted with buffer := [] } = noted := by rw [← hempty]
      unfold takeFrame State.modLink
      dsimp only
      rw [hidle, hempty]
      change Host.Outcome.next { s with
        link := { noted with buffer := [] }, intake := some ⟨f, s.now, none, false⟩ } = _
      rw [hnoted]
    · rw [if_neg (by omega)]
      unfold takeFrame
      split
      · next hnone _ => exact absurd hnone hbusy
      · rfl
    · rw [if_pos hfull]
      have hkeeps := keeps_raiseFault .receiveOverrun noContext { s with link := noted }
      exact ⟨_, rfl, hkeeps.buffer, hkeeps.intake, hkeeps.heard,
        raiseFault_recorder _ _ { s with link := noted }⟩
  · rw [if_pos hown, ownFrame_of_not_echoWait hstage]
    refine ⟨_, rfl, raiseFault_recorder _ _ s, fun hno => ?_, fun hsets hpart hhalt => ?_⟩
    · rw [raiseFault_of_recorded hno]
    · rw [raiseFault_recorder]
      exact raiseFault_sourceSet hsets hpart hhalt _

/-- Settles O47: the deadline is a collision, a frame is one or a good echo; each is said once for
each stand of the final announcement. -/
theorem echoCheckEndsAttempt : Obligations.EchoCheckEndsAttempt := by
  unfold Obligations.EchoCheckEndsAttempt
  intro s hstage x k idle backedOff lastAttempt
  have hdeadline : exec .echoDeadline s = .next (collision s) := by
    change execEchoDeadline s = _
    unfold execEchoDeadline
    rw [hstage]
  have hawaited : s.link.final = .awaited →
      collision s = lastAttempt { idle with collisions := min 8 k } := fun h => by
    let counted := { s with link := { s.link with collisions := min 8 k } }
    rw [collision_of_final (by rw [h]; nofun), endFinal_of_awaited (s := counted) h]
    rfl
  have hrunning : s.link.final = .running →
      ConfigEntered { s with link := { s.link with collisions := min 8 k } } (collision s) :=
    fun h => by
      let counted := { s with link := { s.link with collisions := min 8 k } }
      rw [collision_of_final (by rw [h]; nofun), endFinal_of_running (s := counted) h]
      exact enterConfig_configEntered counted
  refine ⟨fun hfinal hfew => ?_, fun hfinal => ?_, fun hfinal => ?_,
    fun f bytes hf hown hlight hoff hdown => ?_⟩
  · rw [hdeadline, collision_of_few hfinal hfew]
    rfl
  · rw [hdeadline, hawaited hfinal]
  · exact ⟨_, hdeadline, hrunning hfinal⟩
  intro received confirmed replaced
  have hreceived : exec received s =
      .next (if bytes = s.link.sent then goodEcho s else collision s) := by
    change Host.Outcome.next (frameEffect (.delimited bytes) s) = _
    rw [frameEffect_of_wellFormed hf hlight hoff hdown, if_pos hown, ownFrame_of_echoWait hstage]
  refine ⟨fun hfinal => ⟨fun hdiff hfew => ?_, fun hsame hcurrent => ?_, fun hsame hold => ?_⟩,
    fun hfinal => ⟨fun hdiff => ?_, fun hsame hold => ?_⟩, fun hfinal => ?_⟩
  · rw [hreceived, if_neg hdiff, collision_of_few hfinal hfew]
    rfl
  · rw [hreceived, if_pos hsame]
    refine ⟨fun hno => ?_, fun hheard => ?_⟩
    · rw [goodEcho_of_unheard hfinal hcurrent hno]
      rfl
    · rw [goodEcho_of_heard hfinal hcurrent hheard]
      intro echoed
      refine ⟨fun hexpired hheld hquiet => ?_, fun r rest hq => ⟨_, rfl, ?_⟩⟩
      · have he : evalPoint false echoed = intentTests false echoed := by
          unfold evalPoint
          rw [show echoed.engine.state = .intent from hheard.1]
        have hsteps : intentTests false echoed = echoed := by
          unfold intentTests
          rw [show echoed.holds.held = false from hheld,
            show headQuiet echoed = true from hquiet,
            show echoed.engine.expired = false from hexpired]
          rfl
        exact congrArg _ (he.trans hsteps)
      · obtain ⟨-, -, hhead⟩ := evalPoint_evaluationPoint false echoed
        exact (hhead r rest hq).2 hheard.1
  · rw [hreceived, if_pos hsame, goodEcho_of_replaced hfinal hold]
    rfl
  · rw [hreceived, if_neg hdiff, hawaited hfinal]
  · rw [hreceived, if_pos hsame, goodEcho_of_replaced_final (by rw [hfinal]; nofun) hold,
      endFinal_of_awaited (s := { s with link := pendingLink s.link }) hfinal]
    rfl
  · refine ⟨_, hreceived, fun hdiff => ?_, fun hsame hstate => ?_⟩
    · rw [if_neg hdiff]
      exact hrunning hfinal
    · rw [if_pos hsame]
      exact goodEcho_of_running hfinal hstate

/-- Settles O48: both ways make the eighth collision, which is the entry to CHECK with LINK reported
set and ECHO-LOSS raised, one update on which the engine acts once. -/
theorem eighthCollisionEntersCheck : Obligations.EighthCollisionEntersCheck := by
  unfold Obligations.EighthCollisionEntersCheck
  intro c s hstage hfinal hcount hready hpart hlink hcommand s1
  have hcollides : exec c s = .next (collision s) := by
    rcases hcommand with rfl | ⟨f, bytes, rfl, hlight, hf, hown, hdiff⟩
    · change execEchoDeadline s = _
      unfold execEchoDeadline
      rw [hstage]
    · change Host.Outcome.next (frameEffect (.delimited bytes) s) = _
      rw [frameEffect_of_wellFormed hf hlight (by rw [hready]; nofun) (by rw [hready]; nofun),
        if_pos hown, ownFrame_of_echoWait hstage, if_neg hdiff]
  have hcheck : collision s = raiseFault .echoLoss ⟨none, some s.builder.move, none⟩
      (reportSet .link s1) := collision_of_eighth hfinal hcount hready
  have hkeeps := keeps_heldEffect s1
  have htimers := hkeeps.linkTimers
  rw [Prod.mk.injEq, Prod.mk.injEq] at htimers
  obtain ⟨-, htimer, -⟩ := htimers
  obtain ⟨hidle, -⟩ := (stageKept_heldEffect s1).stage fun h => nomatch h.1
  refine ⟨_, hcollides, ?_⟩
  rw [hcheck, raiseFault_reportSet (s := s1) (src := .link) hpart hlink]
  refine ⟨?_, rfl, rfl, rfl, heldEffect_takesEffect s1, hkeeps.trail, htimer, hkeeps.collisions,
    hidle⟩
  rw [heldEffect_eq s1]

end
end

section
/-! SUPPORT. SUBMIT and SUBMIT_SWEEP: their checks, the record they make, and its place in the queue
(R113 to R116). -/

namespace Sys2Proof.Machine

/-! ### Codes -/

theorem byte_eq_zero_or_one {b : Byte} (h : b.toNat < 2) : b = 0 ∨ b = 1 := by
  have : b.toNat = 0 ∨ b.toNat = 1 := by omega
  exact this.imp BitVec.eq_of_toNat_eq BitVec.eq_of_toNat_eq

theorem Cls.ofCode_of_lt {b : Byte} (h : b.toNat < 2) :
    Cls.ofCode b = some (if b = 0 then .normal else .priority) := by
  rcases byte_eq_zero_or_one h with rfl | rfl <;> rfl

theorem Cls.ofCode_of_ge {b : Byte} (h : 2 ≤ b.toNat) : Cls.ofCode b = none := by
  unfold Cls.ofCode
  rw [if_neg (by rintro rfl; exact absurd h (by decide)),
    if_neg (by rintro rfl; exact absurd h (by decide))]

theorem Underrun.ofCode_of_lt {b : Byte} (h : b.toNat < 3) : Underrun.ofCode b =
    some (if b = 0 then .repeatStep else if b = 1 then .skip else .endSweep) := by
  have hcases : b.toNat = 0 ∨ b.toNat = 1 ∨ b.toNat = 2 := by omega
  rcases hcases with h | h | h
  · obtain rfl : b = 0 := BitVec.eq_of_toNat_eq h
    rfl
  · obtain rfl : b = 1 := BitVec.eq_of_toNat_eq h
    rfl
  · obtain rfl : b = 2 := BitVec.eq_of_toNat_eq h
    rfl

theorem Underrun.ofCode_of_ge {b : Byte} (h : 3 ≤ b.toNat) : Underrun.ofCode b = none := by
  unfold Underrun.ofCode
  rw [if_neg (by rintro rfl; exact absurd h (by decide)),
    if_neg (by rintro rfl; exact absurd h (by decide)),
    if_neg (by rintro rfl; exact absurd h (by decide))]

/-- A pacing code outside the set, or under PACED a policy code outside its own, names no pacing. -/
theorem Pacing.ofCodes_eq_none {pacing policy : Byte} (interval : W16)
    (h : 2 ≤ pacing.toNat ∨ (pacing = 1 ∧ 3 ≤ policy.toNat)) :
    Pacing.ofCodes pacing interval policy = none := by
  unfold Pacing.ofCodes
  rcases h with h | ⟨rfl, h⟩
  · rw [if_neg (by rintro rfl; exact absurd h (by decide)),
      if_neg (by rintro rfl; exact absurd h (by decide))]
  · rw [Underrun.ofCode_of_ge h]
    rfl

theorem Pacing.ofCodes_eq_some {pacing policy : Byte} (interval : W16) (hp : pacing.toNat < 2)
    (hu : pacing = 1 → policy.toNat < 3) : Pacing.ofCodes pacing interval policy =
      some (if pacing = 0 then .released
        else .paced (max 10 (min 6000 interval.toNat))
          (if policy = 0 then .repeatStep else if policy = 1 then .skip else .endSweep)) := by
  unfold Pacing.ofCodes
  rcases byte_eq_zero_or_one hp with rfl | rfl
  · rfl
  · rw [Underrun.ofCode_of_lt (hu rfl)]
    rfl

theorem delayTime_eq (now : Nat) (flag : Byte) (delay : W16) : delayTime now flag delay =
    if flag = 0 then none else some (later now delay.toNat) := by
  unfold delayTime flagPresent
  by_cases h : flag = 0
  · rw [if_pos h, if_neg (by simpa using h)]
  · rw [if_neg h, if_pos (by simpa using h)]

/-! ### Checks -/

/-- What is left to check once the codes of a submission name a record (R114). -/
def admitted (r : Request) (s : State) : State :=
  if (findTag r.tag s.queue).isSome then refuse .dupTag s
  else if 8 ≤ s.queue.length then refuse .full s
  else answerOk (acceptRequest r s)

/-- The submission whose codes name a record is admitted or refused as that record is (R114, R115). -/
theorem exec_of_submission {c : Instr} {r : Request} {s : State}
    (hport : s.port.phase = .noTransaction) (hpart : s.part = .running)
    (hc : submissionOf s c = some r) : exec c s = .next (admitted r s) := by
  unfold submissionOf at hc
  split at hc
  · next tag cls target wf wd ef ed =>
    split at hc
    · cases hc
    · next hok =>
      rw [not_or, not_le] at hok
      obtain ⟨htag, hcls⟩ := hok
      obtain rfl := Option.some.inj hc
      change execSubmit tag cls target wf wd ef ed s = _
      unfold execSubmit
      rw [portCommand_taken _ hport, hpart]
      dsimp only
      rw [if_neg htag, Cls.ofCode_of_lt hcls]
      unfold newRequest moveJob
      rw [delayTime_eq, delayTime_eq]
      rfl
  · next tag cls step count pacing interval policy =>
    split at hc
    · cases hc
    · next hok =>
      simp only [not_or, not_le, not_and] at hok
      obtain ⟨htag, hcls, hstep, hpacing, hpolicy⟩ := hok
      obtain rfl := Option.some.inj hc
      change execSubmitSweep tag cls step count pacing interval policy s = _
      unfold execSubmitSweep
      rw [portCommand_taken _ hport, hpart]
      dsimp only
      rw [if_neg htag, Cls.ofCode_of_lt hcls]
      dsimp only
      rw [if_neg hstep, Pacing.ofCodes_eq_some interval hpacing hpolicy]
      rfl
  · cases hc

theorem findTag_isSome_iff (tag : W16) (q : List Request) :
    (findTag tag q).isSome = true ↔ ∃ r ∈ q, r.tag = tag := by
  unfold findTag
  rw [List.find?_isSome]
  simp only [decide_eq_true_eq]

theorem admitted_of_known {r : Request} {s : State} (h : ∃ x ∈ s.queue, x.tag = r.tag) :
    admitted r s = s.answering [3] := by
  unfold admitted
  rw [if_pos ((findTag_isSome_iff _ _).2 h)]
  rfl

theorem findTag_not_isSome {tag : W16} {q : List Request} (h : ∀ x ∈ q, x.tag ≠ tag) :
    ¬(findTag tag q).isSome = true := fun hsome => by
  obtain ⟨x, hx, ht⟩ := (findTag_isSome_iff tag q).1 hsome
  exact h x hx ht

theorem admitted_of_full {r : Request} {s : State} (h : ∀ x ∈ s.queue, x.tag ≠ r.tag)
    (hfull : 8 ≤ s.queue.length) : admitted r s = s.answering [2] := by
  unfold admitted
  rw [if_neg (findTag_not_isSome h), if_pos hfull]
  rfl

/-- An admitted record is accepted on the answered state; the acceptance does not read the port. -/
theorem admitted_of_room {r : Request} {s : State} (h : ∀ x ∈ s.queue, x.tag ≠ r.tag)
    (hroom : s.queue.length < 8) : admitted r s = acceptRequest r (s.answering [0]) := by
  unfold admitted
  rw [if_neg (findTag_not_isSome h), if_neg (not_le.2 hroom)]
  exact (acceptRequest_modPort (fun _ => ⟨.taken, [0]⟩) r s).symm

/-! ### The record and its place -/

/-- A new record stands in QUEUED with no wait start (R114). -/
theorem new_of_submission {c : Instr} {r : Request} {s : State} (hc : submissionOf s c = some r) :
    r.position = .queued ∧ r.waitStart = none := by
  unfold submissionOf at hc
  dsimp only at hc
  split at hc
  all_goals
    first
    | cases hc
    | (split at hc
       · cases hc
       · obtain rfl := Option.some.inj hc
         exact ⟨rfl, rfl⟩)

/-- A record's place while no head stands in WAITING (R116). -/
theorem placeRequest_eq {r : Request} {q : List Request} (h : ∀ x ∈ q, x.position ≠ .waiting) :
    placeRequest r q = placedByClass r q := by
  unfold placeRequest placedByClass
  cases r.cls with
  | normal => rfl
  | priority =>
    cases q with
    | nil => rfl
    | cons x rest =>
      dsimp only
      by_cases hx : x.position = .queued
      · have hback : (if x.cls = .normal then x.at .queued else x) = x := by
          split
          · rw [← hx]; rfl
          · rfl
        rw [inHands_of_queued hx, if_neg Bool.false_ne_true, hback, if_pos (.inl hx)]
        rfl
      · have hw := h x List.mem_cons_self
        have hhands : x.inHands = true := by
          unfold Request.inHands
          cases hp : x.position <;> first | rfl | exact absurd hp hx | exact absurd hp hw
        rw [hhands, if_pos rfl, if_neg (by simp [hx, hw])]
        rfl

/-- Of a head in WAITING, what goes back to QUEUED when a PRIORITY record comes (R116). -/
theorem placeRequest_waiting {r head : Request} {rest : List Request}
    (hhead : head.position = .waiting) (hcls : r.cls = .priority) :
    placeRequest r (head :: rest) = placedByClass r
      ((if head.cls = .normal then { head with position := .queued } else head) :: rest) := by
  have hposition : (if head.cls = .normal then { head with position := .queued }
      else head).position = .queued ∨ (if head.cls = .normal then { head with position := .queued }
      else head).position = .waiting := by
    split
    · exact .inl rfl
    · exact .inr hhead
  unfold placeRequest placedByClass
  rw [hcls]
  dsimp only
  rw [inHands_of_waiting hhead, if_neg Bool.false_ne_true, if_pos hposition]
  rfl

theorem acceptRequest_of_inHands {r : Request} {s : State} (hidle : s.engine.state ≠ .idle)
    (hwaiting : s.engine.state ≠ .waiting) :
    acceptRequest r s = evalPoint false (s.modQueue (placeRequest r)) := by
  unfold acceptRequest
  dsimp only
  split <;> first | rfl | contradiction

theorem acceptRequest_of_waiting {r : Request} {s : State} (h : s.engine.state = .waiting) :
    acceptRequest r s = evalPoint false (takeHead (s.modQueue (placeRequest r))) := by
  unfold acceptRequest
  rw [h]

theorem acceptRequest_of_idle {r : Request} {s : State} (h : s.engine.state = .idle) :
    acceptRequest r s = evalPoint false (takeHead (s.modQueue (placeRequest r))) := by
  unfold acceptRequest
  rw [h]

/-- The front entry is taken as head in WAITING (R113, R136). -/
theorem takeHead_cons {s : State} {r : Request} {rest : List Request} (hq : s.queue = r :: rest) :
    takeHead s = { s with
      queue := { r with
        position := .waiting, waitStart := some (r.waitStart.getD s.now) } :: rest
      engine := { s.engine with state := .waiting, work := .request } } := by
  unfold takeHead
  rw [hq]
  rfl

/-- The queue once a new record has come to a head in WAITING (R113, R116). -/
def joinedWaiting (now : Nat) (r head : Request) (rest : List Request) : List Request :=
  match r.cls with
  | .normal => head :: rest ++ [r]
  | .priority => modFront
      (fun x => { x with position := .waiting, waitStart := some (x.waitStart.getD now) })
      (placedByClass r
        ((if head.cls = .normal then { head with position := .queued } else head) :: rest))

theorem placedByClass_ne_nil (r : Request) (q : List Request) : placedByClass r q ≠ [] := by
  unfold placedByClass
  split
  · simp
  · simp
  · split <;> simp

/-- An accepted record while the head stands in WAITING: it is placed, the front entry is taken, and
the head is evaluated (R113, R135). -/
theorem acceptRequest_joins {r head : Request} {rest : List Request} {s : State}
    (hq : s.queue = head :: rest) (hhead : head.position = .waiting)
    (hstart : head.waitStart ≠ none) (hstate : s.engine.state = .waiting)
    (hwork : s.engine.work = .request) :
    acceptRequest r s =
      evalPoint false { s with queue := joinedWaiting s.now r head rest } := by
  have hengine : { s.engine with state := .waiting, work := .request } = s.engine := by
    rw [← hstate, ← hwork]
  rw [acceptRequest_of_waiting hstate]
  congr 1
  cases hcls : r.cls with
  | normal =>
    have hplaced : (s.modQueue (placeRequest r)).queue = head :: (rest ++ [r]) := by
      rw [State.modQueue_queue, hq]
      unfold placeRequest
      rw [hcls]
      rfl
    have hsame : { head with
        position := .waiting, waitStart := some (head.waitStart.getD s.now) } = head := by
      obtain ⟨w, hw⟩ := Option.ne_none_iff_exists'.1 hstart
      rw [← hhead, hw, Option.getD_some, ← hw]
    rw [takeHead_cons hplaced]
    unfold joinedWaiting
    rw [hcls]
    simp only [State.modQueue, hengine, hsame]
    rfl
  | priority =>
    have hplaced : (s.modQueue (placeRequest r)).queue = placedByClass r
        ((if head.cls = .normal then { head with position := .queued } else head) :: rest) := by
      rw [State.modQueue_queue, hq, placeRequest_waiting hhead hcls]
    obtain ⟨x, xs, hxs⟩ := List.exists_cons_of_ne_nil (placedByClass_ne_nil r
      ((if head.cls = .normal then { head with position := .queued } else head) :: rest))
    rw [hxs] at hplaced
    rw [takeHead_cons hplaced]
    unfold joinedWaiting
    rw [hcls, hxs]
    simp only [State.modQueue, hengine, modFront]

/-- In a queue of NORMAL requests a PRIORITY record comes first. -/
theorem placedByClass_normals {r : Request} {q : List Request} (hq : q ≠ [])
    (hcls : r.cls = .priority) (hnormal : ∀ x ∈ q, x.cls = .normal)
    (hout : ∀ x ∈ q.head?, x.position = .queued) : placedByClass r q = r :: q := by
  cases q with
  | nil => exact absurd rfl hq
  | cons x rest =>
    have hnone : ((x :: rest).filter fun y => decide (y.cls = .priority)) = [] :=
      List.filter_eq_nil_iff.2 fun y hy => by simp [hnormal y hy]
    have hall : ((x :: rest).filter fun y => decide (y.cls = .normal)) = x :: rest :=
      List.filter_eq_self.2 fun y hy => by simp [hnormal y hy]
    unfold placedByClass
    rw [hcls]
    dsimp only
    rw [if_pos (.inl (hout x rfl)), hnone, hall]
    rfl

end Sys2Proof.Machine

section
open Sys2Proof Sys2Proof.Machine

/-- Settles O14: the codes are refused in their order; a record that they name is then known, finds the
queue full, or is accepted. -/
theorem submissionsCheckedInOrder : Obligations.SubmissionsCheckedInOrder := by
  unfold Obligations.SubmissionsCheckedInOrder
  intro s hport hpart
  refine ⟨fun tag cls target wf wd ef ed => ?_,
    fun tag cls step count pacing interval policy => ?_⟩
  · intro c
    have hexec : exec c s = execSubmit tag cls target wf wd ef ed s := rfl
    unfold execSubmit at hexec
    rw [portCommand_taken _ hport, hpart] at hexec
    refine ⟨fun htag => ?_, fun htag hcls => ?_, fun htag hcls => ?_⟩
    · rw [hexec, if_pos htag]
      rfl
    · rw [hexec, if_neg htag, Cls.ofCode_of_ge hcls]
      rfl
    · have hsome : ∃ r, submissionOf s c = some r ∧ r.tag = tag :=
        ⟨_, if_neg (by rw [not_or, not_le]; exact ⟨htag, hcls⟩), rfl⟩
      obtain ⟨r, hr, rfl⟩ := hsome
      rw [exec_of_submission hport hpart hr]
      exact ⟨fun h => by rw [admitted_of_known h], fun h hfull => by rw [admitted_of_full h hfull]⟩
  · intro c
    have hexec : exec c s = execSubmitSweep tag cls step count pacing interval policy s := rfl
    unfold execSubmitSweep at hexec
    rw [portCommand_taken _ hport, hpart] at hexec
    refine ⟨fun htag => ?_, fun htag hbad => ?_, fun htag hcls hstep hpacing hpolicy => ?_⟩
    · rw [hexec, if_pos htag]
      rfl
    · rw [hexec, if_neg htag]
      by_cases hcls : cls.toNat < 2
      · rw [Cls.ofCode_of_lt hcls]
        dsimp only
        by_cases hstep : step = 0
        · rw [if_pos hstep]
          rfl
        · have hcodes := (hbad.resolve_left (not_le.2 hcls)).resolve_left hstep
          rw [if_neg hstep, Pacing.ofCodes_eq_none interval hcodes]
          rfl
      · rw [Cls.ofCode_of_ge (not_lt.1 hcls)]
        rfl
    · have hok : ¬(tag = 0 ∨ 2 ≤ cls.toNat ∨ step = 0 ∨ 2 ≤ pacing.toNat ∨
          (pacing = 1 ∧ 3 ≤ policy.toNat)) := by
        simp only [not_or, not_and, not_le]
        exact ⟨htag, hcls, hstep, hpacing, hpolicy⟩
      have hsome : ∃ r, submissionOf s c = some r ∧ r.tag = tag := ⟨_, if_neg hok, rfl⟩
      obtain ⟨r, hr, rfl⟩ := hsome
      rw [exec_of_submission hport hpart hr]
      exact ⟨fun h => by rw [admitted_of_known h], fun h hfull => by rw [admitted_of_full h hfull]⟩

/-- Settles O15: with no head in WAITING the record takes its place and the acceptance is an evaluation
point. -/
theorem submissionPlacedBehindWork : Obligations.SubmissionPlacedBehindWork := by
  unfold Obligations.SubmissionPlacedBehindWork
  intro c r s hport hpart hc hfresh hroom hout placed
  have hplaced : (s.answering [0]).modQueue (placeRequest r) = placed := by
    unfold State.modQueue
    exact congrArg (fun q => { s.answering [0] with queue := q }) (placeRequest_eq hout)
  have haccept : s.engine.state ≠ .idle → s.engine.state ≠ .waiting →
      exec c s = .next (evalPoint false placed) := fun h1 h2 => by
    rw [exec_of_submission hport hpart hc, admitted_of_room hfresh hroom,
      acceptRequest_of_inHands (s := s.answering [0]) h1 h2, hplaced]
  refine ⟨fun h => ?_, fun h => ⟨_, haccept ?_ ?_, evalPoint_evaluationPoint false placed⟩⟩
  · have hne : s.engine.state ≠ .idle ∧ s.engine.state ≠ .waiting ∧ s.engine.state ≠ .intent := by
      rcases h with h | h | h <;> rw [h] <;> exact ⟨nofun, nofun, nofun⟩
    obtain ⟨h1, h2, h3⟩ := hne
    rw [haccept h1 h2, evalPoint_of_other (s := placed) false h2 h3]
  · rw [h]
    nofun
  · rw [h]
    nofun

/-- Settles O16: the record is the whole queue, taken as head with its wait start now. -/
theorem submissionOnIdleEngine : Obligations.SubmissionOnIdleEngine := by
  unfold Obligations.SubmissionOnIdleEngine
  intro c r s hport hpart hc hq hidle head s1
  obtain ⟨-, hstart⟩ := new_of_submission hc
  have hplaced : ((s.answering [0]).modQueue (placeRequest r)).queue = [r] := by
    rw [State.modQueue_queue]
    exact (congrArg (placeRequest r) hq).trans (placeRequest_nil r)
  have htaken : takeHead ((s.answering [0]).modQueue (placeRequest r)) = s1 := by
    rw [takeHead_cons hplaced, hstart]
    rfl
  refine ⟨evaluate s1, ?_, evaluate_headEvaluated rfl rfl⟩
  rw [exec_of_submission hport hpart hc, admitted_of_room (by rw [hq]; exact List.forall_mem_nil _)
    (by rw [hq]; decide), acceptRequest_of_idle (s := s.answering [0]) hidle, htaken]
  rfl

/-- Settles O17: the record is placed, the front entry taken and evaluated; under a hold it stays, so
among NORMAL requests the new queue can be written out. -/
theorem submissionToWaitingHead : Obligations.SubmissionToWaitingHead := by
  unfold Obligations.SubmissionToWaitingHead
  intro c r head rest s hport hpart hc hq hfresh hroom hhead hstart hstate hwork sentBack placed
  have hplaced : { s.answering [0] with queue := joinedWaiting s.now r head rest } = placed := by
    unfold joinedWaiting
    refine congrArg (fun q => { s.answering [0] with queue := q }) ?_
    cases r.cls with
    | normal => rw [hq]
    | priority => rfl
  have hexec : exec c s = .next (evalPoint false placed) := by
    rw [exec_of_submission hport hpart hc, admitted_of_room hfresh hroom,
      acceptRequest_joins (s := s.answering [0]) hq hhead hstart hstate hwork]
    exact congrArg (fun t => Host.Outcome.next (evalPoint false t)) hplaced
  refine ⟨⟨_, hexec, evalPoint_evaluationPoint false placed⟩, fun hheld hnormal => ?_⟩
  rw [hexec, evalPoint_of_waiting (s := placed) false hstate, evaluate_of_held (s := placed) hheld,
    ← hplaced]
  unfold joinedWaiting
  cases hcls : r.cls with
  | normal => rfl
  | priority =>
    rw [hq] at hnormal
    have hhc : head.cls = .normal := hnormal head List.mem_cons_self
    have hfront : placedByClass r ({ head with position := .queued } :: rest) =
        r :: { head with position := .queued } :: rest := by
      refine placedByClass_normals nofun hcls (fun x hx => ?_) (fun x hx => ?_)
      · rcases List.mem_cons.1 hx with rfl | hx
        · exact hhc
        · exact hnormal x (List.mem_cons_of_mem _ hx)
      · obtain rfl := Option.some.inj hx
        rfl
    dsimp only
    rw [if_pos hhc, hfront]
    simp only [modFront, (new_of_submission hc).2, Option.getD_none, hcls]

end
end

section
/-! SUPPORT. EXTEND, CONFIRM and CANCEL, and the deadlines of a request (R119 to R131). -/

namespace Sys2Proof.Machine

/-! ### The queue by tags -/

theorem findTag_eq_none {tag : W16} {q : List Request} (h : ∀ x ∈ q, x.tag ≠ tag) :
    findTag tag q = none := by
  rw [← Option.not_isSome_iff_eq_none]
  exact findTag_not_isSome h

/-- The requests of a tag leave whether or not they were changed first. -/
theorem withoutTag_changeTag {tag : W16} {f : Request → Request} (hf : ∀ x, (f x).tag = x.tag)
    (q : List Request) : withoutTag tag (changeTag tag f q) = withoutTag tag q := by
  induction q with
  | nil => rfl
  | cons x q ih =>
    unfold withoutTag changeTag at ih ⊢
    by_cases hx : x.tag = tag
    · rw [List.map_cons, if_pos hx, List.filter_cons_of_neg (by simp [hf, hx]),
        List.filter_cons_of_neg (by simp [hx]), ih]
    · rw [List.map_cons, if_neg hx, List.filter_cons_of_pos (by simp [hx]),
        List.filter_cons_of_pos (by simp [hx]), ih]

theorem Request.modSweep_tag (f : SweepJob → SweepJob) (r : Request) :
    (r.modSweep f).tag = r.tag := by
  unfold Request.modSweep
  split <;> rfl

theorem Request.modSweep_modSweep (f g : SweepJob → SweepJob) (r : Request) :
    Request.modSweep f (Request.modSweep g r) = Request.modSweep (fun w => f (g w)) r := by
  cases r with | mk _ _ job _ _ _ _ => cases job <;> rfl

theorem Request.modSweep_of_sweep {f : SweepJob → SweepJob} {r : Request} {w : SweepJob}
    (h : r.job = .sweep w) : r.modSweep f = { r with job := .sweep (f w) } := by
  unfold Request.modSweep
  rw [h]

theorem Request.modMove_of_move {f : MoveJob → MoveJob} {r : Request} {m : MoveJob}
    (h : r.job = .move m) : r.modMove f = { r with job := .move (f m) } := by
  unfold Request.modMove
  rw [h]

/-- Two changes of the sweeps of a tag are one. -/
theorem modTag_modSweep_modSweep (tag : W16) (f g : SweepJob → SweepJob) (q : List Request) :
    modTag tag (Request.modSweep f) (modTag tag (Request.modSweep g) q) =
      modTag tag (Request.modSweep fun w => f (g w)) q := by
  unfold modTag
  rw [List.map_map]
  refine List.map_congr_left fun x _ => ?_
  rw [Function.comp_apply]
  by_cases hx : x.tag = tag
  · rw [if_pos hx, if_pos ((Request.modSweep_tag g x).trans hx), if_pos hx,
      Request.modSweep_modSweep]
  · rw [if_neg hx, if_neg hx, if_neg hx]

theorem isSweep_of_sweep {r : Request} {w : SweepJob} (h : r.job = .sweep w) :
    r.isSweep = true := by
  unfold Request.isSweep
  rw [h]

theorem move_of_not_isSweep {r : Request} (h : r.isSweep = false) : ∃ m, r.job = .move m := by
  unfold Request.isSweep at h
  split at h
  · next m hm => exact ⟨m, hm⟩
  · cases h

/-! ### Completions -/

theorem guardLevel_iff (s : State) :
    guardLevel s = true ↔ s.cfg.fullPolicy = .hold ∧ 14 ≤ s.log.records.length := by
  simp [guardLevel]

theorem guardLevel_of_room {s : State} (h : LogHasRoom s) : guardLevel s = false := by
  rw [← Bool.not_eq_true, guardLevel_iff]
  rintro ⟨hhold, hfull⟩
  have := h.2.2 hhold
  omega

theorem recordOf_eq (r : Request) (o : OutcomeCode) (s : State) :
    recordOf r o s = completionRecord s r o := by
  cases r with | mk _ _ _ _ w _ g => cases w <;> cases g <;> rfl

theorem takeHead_nil {s : State} (hq : s.queue = []) :
    takeHead s = { s with engine := { s.engine with state := .idle, work := .none } } := by
  unfold takeHead
  split
  · rfl
  · next h => exact nomatch hq.symm.trans h

/-- With the queue empty the engine is IDLE. -/
theorem takeNext_of_nil {s : State} (hq : s.queue = []) :
    takeNext s = { s with engine := { s.engine with state := .idle, work := .none } } := by
  unfold takeNext
  rw [takeHead_nil hq]
  exact evaluate_nil hq

/-- The only request completes and the engine is IDLE. -/
theorem takeNext_completeRequest_single {s : State} {r x : Request} (o : OutcomeCode)
    (hroom : LogHasRoom s) (hq : s.queue = [x]) (ht : x.tag = r.tag) :
    takeNext (completeRequest r o s) = { s with
      queue := []
      engine := { s.engine with state := .idle, work := .none }
      log := s.logWith (completionRecord s r o) } := by
  rw [completeRequest_of_room hroom, hq, ← ht, withoutTag_single, takeNext_of_nil rfl]

/-- What follows a completion keeps its record and does not bring the request back. -/
theorem takeNext_completeRequest_progress {s : State} (r : Request) (o : OutcomeCode)
    (hroom : LogHasRoom s) :
    (s.logWith (completionRecord s r o)).records <+:
        (takeNext (completeRequest r o s)).log.records ∧
      ∀ x ∈ (takeNext (completeRequest r o s)).queue, x.tag ≠ r.tag :=
  progress_after_completion hroom (progress_takeNext _)

theorem withdraw_queue_single {s : State} {r : Request} (hq : s.queue = [r]) :
    (withdraw s).queue = [r.at .waiting] := by
  change modFront (fun r => r.at .waiting) s.queue = _
  rw [hq]
  rfl

theorem lapse_queue_single {s : State} {r : Request} (hq : s.queue = [r]) :
    (lapse s).queue = [r.at .waiting] := by
  change modFront (fun r => r.at .waiting) s.queue = _
  rw [hq]
  rfl

/-! ### CONFIRM -/

/-- A CONFIRM makes no step eligible that was not, unless the sweep is RELEASED, unconfirmed, and
past its first step or displaced (R129, R172). -/
theorem stepEligible_confirmed_iff (w : SweepJob) :
    w.stepEligible = ({ w with confirm := true } : SweepJob).stepEligible ↔
      w.confirm = true ∨ w.pacing ≠ .released ∨ (w.stepsDone = 0 ∧ w.afterPark = false) := by
  unfold SweepJob.stepEligible
  cases hp : w.pacing with
  | released => simp
  | paced interval policy => simp

/-! ### CANCEL -/

theorem cancelRequest_modPort (g : Port → Port) (r : Request) (s : State) :
    cancelRequest r (s.modPort g) = (cancelRequest r s).modPort g := by
  unfold cancelRequest
  split
  · exact completeRequest_modPort g r _ s
  · rw [completeRequest_modPort, takeNext_modPort]
  · rw [withdraw_modPort, completeRequest_modPort, takeNext_modPort]
  · rw [lapse_modPort, completeRequest_modPort, takeNext_modPort]
  · rfl
  · exact completeRequest_modPort g r _ (s.modEngine fun e => { e with work := .none })

theorem execCancel_of_unknown {tag : W16} {s : State} (hport : s.port.phase = .noTransaction)
    (hpart : s.part ≠ .config) (h : findTag tag s.queue = none) :
    execCancel tag s = .next (s.answering [5]) := by
  unfold execCancel
  rw [portCommand_taken _ hport, h]
  split
  · contradiction
  all_goals rfl

/-- A CANCEL outside CONFIG of a request in the queue, its checks in their order (R119). -/
theorem execCancel_of_found {tag : W16} {r : Request} {s : State}
    (hport : s.port.phase = .noTransaction) (hpart : s.part ≠ .config)
    (h : findTag tag s.queue = some r) :
    execCancel tag s = .next
      (if r.position = .moving ∧ r.isSweep = false then s.answering [6]
      else if guardLevel s then s.answering [12]
      else cancelRequest r (s.answering [0])) := by
  have hanswer : cancelRequest r (s.answering [0]) = answerOk (cancelRequest r s) :=
    cancelRequest_modPort (fun _ => ⟨.taken, [0]⟩) r s
  unfold execCancel
  rw [portCommand_taken _ hport, h, hanswer]
  split
  · contradiction
  all_goals rfl

/-- A CANCEL with room in the log, except of a MOVE in MOVING, is taken. -/
theorem execCancel_of_room {tag : W16} {r : Request} {s : State}
    (hport : s.port.phase = .noTransaction) (hpart : s.part ≠ .config)
    (h : findTag tag s.queue = some r) (hmoving : ¬(r.position = .moving ∧ r.isSweep = false))
    (hroom : guardLevel s = false) :
    execCancel tag s = .next (cancelRequest r (s.answering [0])) := by
  rw [execCancel_of_found hport hpart h, if_neg hmoving, hroom, if_neg Bool.false_ne_true]

end Sys2Proof.Machine

section
open Sys2Proof Sys2Proof.Machine

/-- Settles O18: each refusal is the branch of its check; past them the slot of the tag's sweep is
loaded. -/
theorem extendLoadsSlot : Obligations.ExtendLoadsSlot := by
  unfold Obligations.ExtendLoadsSlot
  intro tag extension s hport
  have hexec : exec (.extend tag extension) s = execExtend tag extension s := rfl
  unfold execExtend at hexec
  rw [portCommand_taken _ hport] at hexec
  refine ⟨fun hpart => ?_, fun hpart => ?_⟩
  · rw [hexec]
    split
    · rfl
    · rfl
    · contradiction
  · rw [hpart] at hexec
    refine ⟨fun hunknown => ?_, fun r hfound => ?_⟩
    · rw [hexec, findTag_eq_none hunknown]
      rfl
    · rw [hfound] at hexec
      dsimp only at hexec
      refine ⟨fun hmove => ?_, fun w hjob => ?_⟩
      · obtain ⟨m, hm⟩ := move_of_not_isSweep hmove
        rw [hexec, hm]
        rfl
      · rw [hjob] at hexec
        dsimp only at hexec
        refine ⟨fun hopen => ?_, fun hcounted hmore hpending => ?_, fun hcounted hfree => ?_⟩
        · rw [hexec, if_pos hopen]
          rfl
        · rw [hexec, if_neg hcounted, if_pos ⟨hmore, hpending⟩]
          rfl
        · rw [hexec, if_neg hcounted, if_neg (by omega)]
          rfl

/-- Settles O19: past the refusals the front sweep's flag is set, and where that makes its step
eligible the head is evaluated. -/
theorem confirmSetsFlag : Obligations.ConfirmSetsFlag := by
  unfold Obligations.ConfirmSetsFlag
  intro s hport hpart
  have hexec : exec .confirm s = execConfirm s := rfl
  unfold execConfirm at hexec
  rw [portCommand_taken _ hport, hpart] at hexec
  refine ⟨fun hq => ?_, fun r rest hq => ?_⟩
  · rw [hexec, hq]
    rfl
  · rw [hq] at hexec
    dsimp only at hexec
    refine ⟨fun hno => ?_, fun w hjob hout => ?_⟩
    · rw [hexec]
      split
      · rfl
      · next w hw =>
        have hqueued : r.position = .queued := hno.resolve_left (by
          rw [isSweep_of_sweep hw]
          exact Bool.false_ne_true.symm)
        rw [if_pos hqueued]
        rfl
    · intro head s1
      rw [hjob] at hexec
      dsimp only at hexec
      rw [if_neg hout] at hexec
      have hset : (s.modQueue (modFront (Request.modSweep fun v => { v with confirm := true }))).modPort
          (fun _ => ⟨.taken, [0]⟩) = s1 := by
        unfold State.modQueue
        rw [hq]
        simp only [modFront, Request.modSweep_of_sweep hjob]
        rfl
      refine ⟨_, hexec, fun hno => ?_, fun hunconfirmed hreleased hwaits => ?_⟩
      · rw [if_pos ((stepEligible_confirmed_iff w).2 hno)]
        exact hset
      · rw [if_neg (fun h => ?_)]
        · have hanswer : answerOk (evalPoint false
              (s.modQueue (modFront (Request.modSweep fun v => { v with confirm := true })))) =
              evalPoint false s1 := by
            rw [← hset]
            exact (evalPoint_modPort (fun _ => ⟨.taken, [0]⟩) false _).symm
          rw [hanswer]
          exact evalPoint_evaluationPoint false s1
        · rcases (stepEligible_confirmed_iff w).1 h with h | h | h
          · exact absurd (hunconfirmed.symm.trans h) Bool.false_ne_true
          · exact h hreleased
          · exact hwaits.elim (· h.1) fun hp => absurd (hp.symm.trans h.2) Bool.false_ne_true.symm

/-- Settles O20: the checks in their order, then what CANCEL does in QUEUED and in MOVING. -/
theorem cancelOfQueuedOrMoving : Obligations.CancelOfQueuedOrMoving := by
  unfold Obligations.CancelOfQueuedOrMoving
  intro tag s hport hpart
  refine ⟨fun hunknown => execCancel_of_unknown hport hpart (findTag_eq_none hunknown),
    fun r hfound => ?_⟩
  have hexec : exec (.cancel tag) s = _ := execCancel_of_found hport hpart hfound
  obtain rfl := tag_of_findTag hfound
  refine ⟨fun hpos hmove => ?_, fun hno hhold hfull => ?_, fun hpos hroom => ?_,
    fun hpos hsweep hlow => ?_⟩
  · rw [hexec, if_pos ⟨hpos, hmove⟩]
  · rw [hexec, if_neg hno, if_pos ((guardLevel_iff s).2 ⟨hhold, hfull⟩)]
  · refine (execCancel_of_room hport hpart hfound (by rw [hpos]; exact fun h => nomatch h.1)
      (guardLevel_of_room hroom)).trans ?_
    unfold cancelRequest
    rw [hpos]
    dsimp only
    rw [completeRequest_of_room (s := s.answering [0]) hroom]
    rfl
  · refine (execCancel_of_room hport hpart hfound
      (fun h => absurd (hsweep.symm.trans h.2) Bool.false_ne_true.symm) ?_).trans ?_
    · rw [← Bool.not_eq_true, guardLevel_iff]
      exact hlow
    · unfold cancelRequest
      rw [hpos]
      rfl

/-- Settles O21: the intent is withdrawn or the grant lapses, then the head completes and the next is
taken. -/
theorem cancelOfHead : Obligations.CancelOfHead := by
  unfold Obligations.CancelOfHead
  intro tag r s hport hpart hfound hroom
  obtain rfl := tag_of_findTag hfound
  have hexec : r.position ≠ .moving → exec (.cancel r.tag) s = _ := fun h =>
    execCancel_of_room hport hpart hfound (fun hc => h hc.1) (guardLevel_of_room hroom)
  refine ⟨fun hpos => ?_, fun hpos => ?_⟩
  · rw [hexec (by rw [hpos]; nofun)]
    unfold cancelRequest
    rw [hpos]
    dsimp only
    rw [completeRequest_of_room
      (s := (s.answering [0]).modEngine fun e => { e with work := .none }) hroom]
    rfl
  · have hne : r.position ≠ .moving := by rcases hpos with h | h | h <;> rw [h] <;> nofun
    rw [hexec hne]
    unfold cancelRequest
    rcases hpos with hpos | hpos | hpos
    · rw [hpos]
      dsimp only
      obtain ⟨hlog, htags⟩ :=
        takeNext_completeRequest_progress (s := s.answering [0]) r .cancelled hroom
      refine ⟨_, rfl, ((keeps_completeRequest _ _ _).trans (keeps_takeNext _)).port, htags, hlog,
        fun hq => ?_⟩
      rw [takeNext_completeRequest_single (s := s.answering [0]) (r := r) (x := r) .cancelled hroom
        hq rfl]
      exact ⟨rfl, fun _ => ⟨rfl, rfl⟩, nofun, nofun⟩
    · rw [hpos]
      dsimp only
      obtain ⟨hlog, htags⟩ :=
        takeNext_completeRequest_progress (s := withdraw (s.answering [0])) r .cancelled hroom
      refine ⟨_, rfl, (((keeps_withdraw _).trans (keeps_completeRequest _ _ _)).trans
        (keeps_takeNext _)).port, htags, hlog, fun hq => ?_⟩
      rw [takeNext_completeRequest_single (s := withdraw (s.answering [0])) (r := r)
        (x := r.at .waiting) .cancelled hroom (withdraw_queue_single hq) rfl]
      exact ⟨rfl, nofun, fun _ => ⟨announce_idle rfl rfl rfl, rfl⟩, nofun⟩
    · rw [hpos]
      dsimp only
      obtain ⟨hlog, htags⟩ :=
        takeNext_completeRequest_progress (s := lapse (s.answering [0])) r .cancelled hroom
      refine ⟨_, rfl, (((keeps_lapse _).trans (keeps_completeRequest _ _ _)).trans
        (keeps_takeNext _)).port, htags, hlog, fun hq => ?_⟩
      rw [takeNext_completeRequest_single (s := lapse (s.answering [0])) (r := r) (x := r.at .waiting)
        .cancelled hroom (lapse_queue_single hq) rfl]
      exact ⟨rfl, nofun, nofun, fun _ => ⟨announce_idle rfl rfl rfl, rfl⟩⟩

end
end

section
/-! SUPPORT. The waive time, the expiry time, the pace deadline and the start timeout (R121 to R123,
R130, R131, R149). -/

namespace Sys2Proof.Machine

/-! ### A record offered while the engine has nothing to give up -/

theorem offer_of_config {s : State} (hpart : s.part = .config) (r : OutcomeRecord) :
    offer r s = { s with log := s.log.offered r, recorder := s.recorderOffered r } := by
  have hguard : ∀ u : State, u.part = .config → guardRise u = u := fun u hu => by
    unfold guardRise
    split
    · exact reportSet_of_config hu
    · rfl
  have hdrop : ∀ u : State, u.part = .config →
      guardRise (raiseFault .outcomeLost (tagContext r.tag) u) =
        { u with recorder := u.recorder.raised u.cfg u.now .outcomeLost (tagContext r.tag) } :=
    fun u hu => by
      rw [raiseFault_of_recorded (.inr (.inl hu))]
      exact hguard _ hu
  unfold offer OutcomeLog.offered State.recorderOffered OutcomeLog.drops
  by_cases hlost : s.log.lost = true
  · rw [if_pos hlost, if_pos hlost, if_pos (by rw [hlost]; rfl)]
    exact hdrop s hpart
  · by_cases hfull : 16 ≤ s.log.records.length
    · rw [if_neg hlost, if_pos hfull, if_neg hlost, if_pos hfull, if_pos (by simp [hfull])]
      exact hdrop (s.modLog fun l => { l with lost := true }) hpart
    · rw [if_neg hlost, if_neg hfull, if_neg hlost, if_neg hfull, if_neg (by simp [hlost, hfull])]
      exact hguard (s.modLog fun l => { l with records := l.records ++ [r] }) hpart

/-- An offer to a log, at any count, while no intent and no normal grant stands: neither the engine,
the queue nor the link changes. -/
theorem offer_of_steady {s : State} (h : Steady s) (r : OutcomeRecord) : offer r s =
    { s with
      log := s.log.offered r
      recorder := (offer r s).recorder
      holds := (offer r s).holds
      attention := (offer r s).attention } := by
  by_cases hpart : s.part = .config
  · rw [offer_of_config hpart]
  · rw [offer_eq hpart, heldEffect_of_coherent h.intent h.granted]
    split <;> rfl

/-- What an offer outside CONFIG reports: the recorder, the hold set, and the HOLD cause when a source
becomes set. -/
theorem offer_reports {s : State} (hpart : s.part ≠ .config) (r : OutcomeRecord) :
    (offer r s).recorder = s.recorderOffered r ∧ (offer r s).holds = s.holdsOffered r ∧
      (offer r s).attention = if (offer r s).holds = s.holds then s.attention
        else { s.attention with holdLatched := true } := by
  obtain ⟨heq, -, -⟩ := offer_recordOffered hpart r
  have hholds : (offer r s).holds = s.holdsOffered r := congrArg State.holds heq
  refine ⟨congrArg State.recorder heq, hholds, ?_⟩
  rw [hholds]
  exact congrArg State.attention heq

/-! ### The deadlines of a request -/

theorem execWaiveTime_of_move {tag : W16} {s : State} {r : Request} {m : MoveJob}
    (hfound : findTag tag s.queue = some r) (hjob : r.job = .move m) :
    execWaiveTime tag s = .next
      (if m.waiveRuns && Timer.due m.waiveTime s.now then
        if r.position = .waiting ∨ r.position = .intent then
          evalPoint false
            (s.modQueue (modTag tag (Request.modMove fun v => { v with waiveRuns := false })))
        else s.modQueue (modTag tag (Request.modMove fun v => { v with waiveRuns := false }))
      else s) := by
  unfold execWaiveTime
  rw [hfound]
  dsimp only
  rw [hjob]

theorem execExpiryTime_of_move {tag : W16} {s : State} {r : Request} {m : MoveJob}
    (hfound : findTag tag s.queue = some r) (hjob : r.job = .move m) :
    execExpiryTime tag s = .next
      (if m.expiryRuns && Timer.due m.expiryTime s.now then expireRequest r s else s) := by
  unfold execExpiryTime
  rw [hfound]
  dsimp only
  rw [hjob]

theorem execPaceDeadline_of_sweep {tag : W16} {s : State} {r : Request} {w : SweepJob}
    (hfound : findTag tag s.queue = some r) (hjob : r.job = .sweep w) :
    execPaceDeadline tag s = .next
      (if Timer.due w.paceDeadline s.now then judgePace r w s else s) := by
  unfold execPaceDeadline
  rw [hfound]
  dsimp only
  rw [hjob]

/-- A deadline that runs is reached. -/
theorem runs_and_due_iff (runs : Bool) (t : Timer) (now : Nat) :
    (runs && Timer.due t now) = true ↔ runs = true ∧ Reached t now := by
  rw [Bool.and_eq_true, due_iff]

/-- The state with a sweep's pace deadline over. -/
def deadlineOver (r : Request) (s : State) : State :=
  s.modQueue (modTag r.tag (Request.modSweep fun v => { v with paceDeadline := none }))

/-- Confirmed, or unconfirmed under REPEAT, the step becomes eligible (R130, R131). -/
theorem judgePace_of_go {r : Request} {w : SweepJob} {s : State} {interval : Nat}
    {policy : Underrun} (hpacing : w.pacing = .paced interval policy)
    (hgo : w.confirm = true ∨ policy = .repeatStep) :
    judgePace r w s = stepBecomesEligible r { deadlineOver r s with
      attention := if w.confirm then s.attention
        else { s.attention with sweepUnderrun := true } } := by
  unfold judgePace
  rw [hpacing]
  dsimp only
  cases hconfirm : w.confirm with
  | true => rfl
  | false =>
    rw [hgo.resolve_left (by rw [hconfirm]; exact Bool.false_ne_true)]
    rfl

theorem judgePace_of_end {r : Request} {w : SweepJob} {s : State} {interval : Nat}
    (hpacing : w.pacing = .paced interval .endSweep) (hno : w.confirm = false) :
    judgePace r w s = underrunEnd r (deadlineOver r s) := by
  unfold judgePace
  rw [hpacing, hno]
  rfl

/-- The expiry of the only request out of INTENT, at any log count: its record is offered with the
intent withdrawn, and the engine is IDLE. -/
theorem expire_intent_single {s : State} {r : Request} (hq : s.queue = [r]) :
    let offered := offer (completionRecord s r .expired) ((withdraw s).modQueue fun _ => [])
    takeNext (completeRequest r .expired (withdraw s)) = { withdraw s with
      queue := []
      engine := { (withdraw s).engine with state := .idle, work := .none }
      log := s.log.offered (completionRecord s r .expired)
      recorder := offered.recorder
      holds := offered.holds
      attention := offered.attention } := by
  intro offered
  have hqueue : (withdraw s).modQueue (removeTag r.tag) = (withdraw s).modQueue fun _ => [] := by
    unfold State.modQueue
    rw [withdraw_queue_single hq]
    exact congrArg (fun q => { withdraw s with queue := q }) (withoutTag_single (r.at .waiting))
  have hcomplete : completeRequest r .expired (withdraw s) = offered := by
    unfold completeRequest
    rw [hqueue, recordOf_eq]
    rfl
  have hsteady : Steady ((withdraw s).modQueue fun _ => []) :=
    steady_of_state (st := .waiting) rfl nofun nofun
  have hoffered := offer_of_steady hsteady (completionRecord s r .expired)
  have hnil : offered.queue = [] := congrArg State.queue hoffered
  rw [hcomplete]
  exact (takeNext_of_nil hnil).trans (congrArg
    (fun u : State => { u with engine := { u.engine with state := .idle, work := .none } })
    hoffered)

end Sys2Proof.Machine

section
open Sys2Proof Sys2Proof.Machine

/-- Settles O22: the deadline is over, and for the head that is an evaluation point, at which the
waived request counts as quiet. -/
theorem waiveTimeReached : Obligations.WaiveTimeReached := by
  unfold Obligations.WaiveTimeReached
  intro tag s
  have hexec : exec (.waiveTime tag) s = execWaiveTime tag s := rfl
  refine ⟨fun hnone => ?_, fun r m hfound hjob => ⟨fun hnot => ?_, fun hruns hreached => ?_⟩⟩
  · rw [hexec]
    unfold execWaiveTime
    rw [hnone]
  · rw [hexec, execWaiveTime_of_move hfound hjob,
      if_neg fun h => hnot ((runs_and_due_iff _ _ _).1 h)]
  · intro s1
    have heffect : exec (.waiveTime tag) s = .next
        (if r.position = .waiting ∨ r.position = .intent then evalPoint false s1 else s1) := by
      rw [hexec, execWaiveTime_of_move hfound hjob,
        if_pos ((runs_and_due_iff _ _ _).2 ⟨hruns, hreached⟩)]
      rfl
    refine ⟨_, heffect, fun hpos => ?_, fun hpos => ?_,
      fun rest hq hpos hstate hheld hpending hmoves hpause hbudget => ?_⟩
    · rw [if_neg fun h => h.elim hpos.1 hpos.2]
    · rw [if_pos hpos]
      exact evalPoint_evaluationPoint false s1
    · rw [if_pos (.inl hpos), evalPoint_of_waiting (s := s1) false hstate]
      have htag : r.tag = tag := tag_of_findTag hfound
      have hq1 : s1.queue = { r with job := .move { m with waiveRuns := false } } :: s1.queue.tail := by
        change changeTag tag _ s.queue = _ :: (changeTag tag _ s.queue).tail
        rw [hq]
        unfold changeTag
        rw [List.map_cons, if_pos htag, Request.modMove_of_move hjob]
        rfl
      have hquiet : quietMet s1 { r with job := .move { m with waiveRuns := false } } = true := by
        have hwaived : ({ r with job := .move { m with waiveRuns := false } } : Request).waived
            s1.now = true := (waived_iff _ _).2 ⟨_, rfl, hreached⟩
        unfold quietMet
        rw [hwaived, Bool.true_or]
      have heligible : ({ r with job := .move { m with waiveRuns := false } } : Request).eligible =
          true := (eligible_iff _).2 hpending
      exact (evaluate_of_passes (s := s1) hstate hq1
        ⟨hheld, heligible, hmoves, hpause, hquiet, hbudget⟩).1

/-- Settles O23: by the request's position; out of INTENT the record is offered with the intent
already withdrawn, so a source that the offer sets finds nothing more to give up. -/
theorem expiryTimeReached : Obligations.ExpiryTimeReached := by
  unfold Obligations.ExpiryTimeReached
  intro tag s
  have hexec : exec (.expiryTime tag) s = execExpiryTime tag s := rfl
  refine ⟨fun hnone => ?_, fun r m hfound hjob => ⟨fun hnot => ?_, fun hruns hreached => ?_⟩⟩
  · rw [hexec]
    unfold execExpiryTime
    rw [hnone]
  · rw [hexec, execExpiryTime_of_move hfound hjob,
      if_neg fun h => hnot ((runs_and_due_iff _ _ _).1 h)]
  · rw [hexec, execExpiryTime_of_move hfound hjob,
      if_pos ((runs_and_due_iff _ _ _).2 ⟨hruns, hreached⟩)]
    obtain rfl := tag_of_findTag hfound
    unfold expireRequest
    refine ⟨fun hpos => ?_, fun hpos hhold hfull => ?_, fun hpos hroom => ?_, fun hpos hroom => ?_,
      fun hpos hq => ?_⟩
    · rcases hpos with hpos | hpos | hpos <;> rw [hpos]
    · have hlevel := (guardLevel_iff s).2 ⟨hhold, hfull⟩
      rcases hpos with hpos | hpos <;> rw [hpos, hlevel] <;> rfl
    · rw [hpos, guardLevel_of_room hroom]
      exact congrArg _ (completeRequest_of_room hroom r .expired)
    · rcases hpos with hpos | hpos
      · rw [hpos, guardLevel_of_room hroom]
        obtain ⟨hlog, htags⟩ := takeNext_completeRequest_progress r .expired hroom
        exact ⟨_, rfl, htags, hlog⟩
      · rw [hpos]
        obtain ⟨hlog, htags⟩ :=
          takeNext_completeRequest_progress (s := withdraw s) r .expired hroom
        exact ⟨_, rfl, htags, hlog⟩
    · rw [hpos]
      dsimp only
      refine ⟨_, rfl, ?_⟩
      rw [expire_intent_single hq]
      refine ⟨rfl, rfl, rfl, announce_idle rfl rfl rfl, fun hpart => ?_, rfl⟩
      exact offer_reports (s := (withdraw s).modQueue fun _ => []) hpart _

/-- Settles O24: the judgement by the confirm flag and the under-run policy, and under END by the
request's position. -/
theorem paceDeadlineJudged : Obligations.PaceDeadlineJudged := by
  unfold Obligations.PaceDeadlineJudged
  intro tag s
  have hexec : exec (.paceDeadline tag) s = execPaceDeadline tag s := rfl
  refine ⟨fun hnone => ?_, fun r w hfound hjob => ⟨fun hnot => ?_,
    fun interval policy hpacing hreached => ?_⟩⟩
  · rw [hexec]
    unfold execPaceDeadline
    rw [hnone]
  · rw [hexec, execPaceDeadline_of_sweep hfound hjob, if_neg fun h => hnot ((due_iff _ _).1 h)]
  · rw [hexec, execPaceDeadline_of_sweep hfound hjob, if_pos ((due_iff _ _).2 hreached)]
    obtain rfl := tag_of_findTag hfound
    refine ⟨fun hgo => ?_, fun hno hskip => ?_, fun hno hend => ?_⟩
    · rw [judgePace_of_go hpacing hgo]
      exact ⟨_, rfl, fun hpos => if_neg hpos, fun hpos => by
        unfold stepBecomesEligible
        rw [if_pos hpos]
        exact evalPoint_evaluationPoint false _⟩
    · unfold judgePace
      rw [hpacing, hno, hskip]
      rfl
    · subst hend
      let s1 := deadlineOver r s
      have hqueue : withoutTag r.tag s1.queue = withoutTag r.tag s.queue :=
        withoutTag_changeTag (Request.modSweep_tag _) s.queue
      rw [judgePace_of_end hpacing hno]
      unfold underrunEnd
      refine ⟨fun hpos hhold hfull => ?_, fun hpos hroom => ?_, fun hpos hroom => ?_,
        fun hpos hroom => ?_⟩
      · have hlevel : guardLevel s1 = true := (guardLevel_iff s1).2 ⟨hhold, hfull⟩
        have hflag : s1.modQueue (modTag r.tag (Request.modSweep fun w =>
            { w with unconfirmedPending := true })) = { s with
              queue := changeTag r.tag (Request.modSweep fun v =>
                { v with paceDeadline := none, unconfirmedPending := true }) s.queue } :=
          congrArg (fun q => { s with queue := q }) (modTag_modSweep_modSweep r.tag _ _ s.queue)
        rcases hpos with hpos | hpos <;> rw [hpos, hlevel] <;> exact congrArg _ hflag
      · rw [hpos, guardLevel_of_room (s := s1) hroom]
        dsimp only
        rw [if_neg Bool.false_ne_true, if_neg nofun,
          completeRequest_of_room (s := s1) hroom, hqueue]
        rfl
      · rw [hpos]
        dsimp only
        rw [completeRequest_of_room (s := s1.modEngine fun e => { e with work := .none }) hroom,
          State.modEngine_queue, hqueue]
        rfl
      · rw [hpos, guardLevel_of_room (s := s1) hroom]
        obtain ⟨hlog, htags⟩ :=
          takeNext_completeRequest_progress (s := s1) r .unconfirmed hroom
        exact ⟨_, rfl, htags, hlog⟩

end
end

section
/-! SUPPORT. The start timeout (R149, R150), and the deadlines of the table, the window list and the
map (R62, R98, R100, R102). -/

namespace Sys2Proof.Machine

/-! ### The lapse at the start timeout -/

/-- NO-START raised and the grant lapsed, in whichever order they come: a FATAL NO-START has lapsed the
grant by the HALT source it sets (R149, R160). -/
def noStartLapsed (ctx : FaultContext) (s : State) : State :=
  let raised := raiseFault .noStart ctx s
  if raised.engine.state = .granted then lapse raised else raised

theorem noStartLapsed_eq {s : State} (ctx : FaultContext) (hstate : s.engine.state = .granted)
    (hwork : s.engine.work = .request) : noStartLapsed ctx s = { lapse s with
      recorder := s.recorder.raised s.cfg s.now .noStart ctx
      holds := (raiseFault .noStart ctx s).holds
      attention := (raiseFault .noStart ctx s).attention } := by
  unfold noStartLapsed
  dsimp only
  by_cases hno : setsHalt s.cfg .noStart = false ∨ s.part = .config ∨ s.holds.halt = true
  · rw [raiseFault_of_recorded hno, if_pos hstate]
    rfl
  · rw [not_or, not_or, Bool.not_eq_false, Bool.not_eq_true] at hno
    obtain ⟨hsets, hpart, hhalt⟩ := hno
    have hlapse : heldEffect s = lapse s := by
      unfold heldEffect
      rw [hstate, hwork]
    have hraised : raiseFault .noStart ctx s = (lapse s).reporting s.log
        (s.recorder.raised s.cfg s.now .noStart ctx) { s.holds with halt := true }
        { s.attention with holdLatched := true } := by
      have h := raiseFault_reporting hpart .noStart ctx s.log s.recorder s.holds s.attention
      rw [if_pos ⟨hsets, hhalt⟩, hlapse] at h
      exact h
    rw [hraised]
    exact if_neg nofun

theorem execStartTimeoutExpiry_of_due {s : State} {g : Grant} {r : Request} {rest : List Request}
    (hdue : Reached s.engine.startTimeout s.now) (hstate : s.engine.state = .granted)
    (hwork : s.engine.work = .request) (hgrant : s.engine.grant = some g)
    (hq : s.queue = r :: rest) : execStartTimeoutExpiry s =
      .next (takeNext (completeRequest r .noStart (noStartLapsed (tagContext g.tag) s))) := by
  unfold execStartTimeoutExpiry
  rw [hstate, hwork, hgrant, hq]
  exact congrArg _ (if_pos ((due_iff _ _).2 hdue))

/-! ### Deadlines -/

theorem execEntryExpiry_of_found {station : Nat} {s : State} {n : Neighbour}
    (hfound : s.neighbours.find? (fun n => decide (n.station = station)) = some n)
    (hdue : n.expiry ≤ s.now) : execEntryExpiry station s =
      .next (evalPoint false (s.modNeighbours (removeNeighbour station))) := by
  unfold execEntryExpiry
  rw [hfound]
  exact congrArg _ (if_pos hdue)

theorem execWindowClose_of_found {station : Nat} {move : Byte} {s : State} {w : Window}
    (hfound : s.windows.find? (fun w => w.hasKey station move) = some w)
    (hdue : w.closeTime ≤ s.now) : execWindowClose station move s =
      .next (evalPoint false (rederive (s.modWindows (removeWindow station move)))) := by
  unfold execWindowClose
  rw [hfound]
  exact congrArg _ (if_pos hdue)

/-- The map one bin on (R100). -/
def nextBin (s : State) : State :=
  let base := s.quietMap.base + binPeriod s.cfg
  { s with quietMap := ⟨base, later base (binPeriod s.cfg),
      deriveBins base (binPeriod s.cfg) s.windows⟩ }

theorem execBinBoundary_of_due {s : State} (hdue : s.quietMap.boundary ≤ s.now) :
    execBinBoundary s =
      .next (if s.part = .config then nextBin s else evalPoint false (nextBin s)) := by
  unfold execBinBoundary
  rw [if_pos hdue]
  rfl

end Sys2Proof.Machine

section
open Sys2Proof Sys2Proof.Machine

/-- Settles O33: the fault and the lapse are one update, after which the head completes and the next is
taken. -/
theorem startTimeoutLapsesGrant : Obligations.StartTimeoutLapsesGrant := by
  unfold Obligations.StartTimeoutLapsesGrant
  intro s
  have hexec : exec .startTimeoutExpiry s = execStartTimeoutExpiry s := rfl
  rw [hexec]
  refine ⟨fun hnot => ?_, fun g r rest hdue hstate hwork hgrant hq hroom => ?_⟩
  · unfold execStartTimeoutExpiry
    split
    · rw [if_neg fun h => hnot ((due_iff _ _).1 h)]
    · rfl
  · rw [execStartTimeoutExpiry_of_due hdue hstate hwork hgrant hq,
      noStartLapsed_eq (tagContext g.tag) hstate hwork]
    let lapsed : State := { lapse s with
      recorder := s.recorder.raised s.cfg s.now .noStart (tagContext g.tag)
      holds := (raiseFault .noStart (tagContext g.tag) s).holds
      attention := (raiseFault .noStart (tagContext g.tag) s).attention }
    have hsteady : Steady lapsed := steady_of_state (st := .waiting) rfl nofun nofun
    have hsame : SameGrant lapsed (takeNext (completeRequest r .noStart lapsed)) :=
      ((sameGrant_completeRequest r .noStart hsteady).trans (sameGrant_takeHead _)).trans
        (sameGrant_evaluate _)
    have htag : lapsed.engine.lapsedTag = some g.tag := by
      change (s.engine.grant.map Grant.tag).or s.engine.lapsedTag = _
      rw [hgrant]
      rfl
    obtain ⟨hlog, htags⟩ := takeNext_completeRequest_progress (s := lapsed) r .noStart hroom
    refine ⟨_, rfl, htags, hsame.grant, hsame.startTimeout, hsame.lapsedTag.trans htag, hsame.move,
      hlog, ?_⟩
    rintro rfl
    rw [takeNext_completeRequest_single (s := lapsed) (r := r) (x := r.at .waiting) .noStart hroom
      (lapse_queue_single hq) rfl]
    refine ⟨rfl, rfl, rfl, announce_idle rfl rfl rfl, fun hsets => ?_, ?_⟩
    · change (raiseFault .noStart (tagContext g.tag) s).holds = s.holds
      rw [raiseFault_of_recorded (.inl hsets)]
    · rw [← htag]
      rfl

/-- Settles O54: each deadline removes or re-forms what it belongs to, and the rest is the evaluation
point, which keeps it. -/
theorem tableListAndMapDeadlines : Obligations.TableListAndMapDeadlines := by
  unfold Obligations.TableListAndMapDeadlines
  intro s
  refine ⟨fun station hnot => ?_, fun station n hfound hdue => ?_, fun station move hnot => ?_,
    fun station move w hfound hdue => ?_, fun hnot => ?_, fun hdue => ?_⟩
  · change execEntryExpiry station s = _
    unfold execEntryExpiry
    split
    · next n hn =>
      have hlate := hnot n (List.mem_of_find?_eq_some hn)
        (of_decide_eq_true
          (List.find?_some (p := fun n : Neighbour => decide (n.station = station)) hn))
      rw [if_neg (not_le.2 hlate)]
    · rfl
  · let removed := s.modNeighbours (removeNeighbour station)
    have hkeeps := keeps_evalPoint false removed
    have hsame : { s with neighbours := (evalPoint false removed).neighbours } = removed := by
      rw [hkeeps.neighbours]
      rfl
    refine ⟨_, execEntryExpiry_of_found hfound hdue, hkeeps.neighbours, hkeeps.windows, ?_⟩
    rw [hsame]
    exact evalPoint_evaluationPoint false removed
  · change execWindowClose station move s = _
    unfold execWindowClose
    split
    · next w hw =>
      have hlate := hnot w (List.mem_of_find?_eq_some hw)
        (List.find?_some (p := fun w : Window => w.hasKey station move) hw)
      rw [if_neg (not_le.2 hlate)]
    · rfl
  · let closed := rederive (s.modWindows (removeWindow station move))
    have hkeeps := keeps_evalPoint false closed
    have hsame : { s with
        windows := (evalPoint false closed).windows
        quietMap := (evalPoint false closed).quietMap } = closed := by
      rw [hkeeps.windows, hkeeps.quietMap]
      rfl
    refine ⟨_, execWindowClose_of_found hfound hdue, hkeeps.windows, ?_, ?_⟩
    · rw [hkeeps.quietMap, hkeeps.windows]
      rfl
    · rw [hsame]
      exact evalPoint_evaluationPoint false closed
  · change execBinBoundary s = _
    unfold execBinBoundary
    rw [if_neg (not_le.2 hnot)]
  · have hkeeps := keeps_evalPoint false (nextBin s)
    refine ⟨_, execBinBoundary_of_due hdue, ?_, fun hconfig => ?_, fun hpart => ?_⟩
    · split
      · rfl
      · exact hkeeps.quietMap
    · rw [if_pos hconfig]
      rfl
    · have hsame : { s with quietMap := (evalPoint false (nextBin s)).quietMap } = nextBin s := by
        rw [hkeeps.quietMap]
        rfl
      rw [if_neg hpart, hsame]
      exact evalPoint_evaluationPoint false (nextBin s)

end
end

section
/-! SUPPORT. CONFIGURE, START and STOP: the stored record, the entry to RUNNING and the stop's work. -/

namespace Sys2Proof.Machine

/-! ### CONFIGURE (R190) -/

theorem clampNat_zero (hi x : Nat) : clampNat 0 hi x = min hi x := Nat.zero_max _

/-- A code below its bound, as the claim states it with the last code stored. -/
theorem storeCode_succ (last : Nat) (b : Byte) (kept : Nat) :
    storeCode (last + 1) b kept = if b.toNat ≤ last then b.toNat else kept := by
  unfold storeCode
  exact if_congr Nat.lt_succ_iff rfl rfl

/-- A stored record in the place of another: beside it the map, re-aligned if P is another, and LOST,
cleared under HOLD with room. -/
theorem applyConfig_eq (c : Config) (s : State) : applyConfig c s = { s with
    cfg := c
    quietMap := if s.cfg.periodCode = c.periodCode then s.quietMap
      else (alignMap (s.withConfig c)).quietMap
    log := if c.fullPolicy = .hold ∧ s.log.records.length < 16 then { s.log with lost := false }
      else s.log } := by
  unfold applyConfig
  dsimp only
  split <;> split <;> rfl

/-- The map of a changed P (R100, R110). -/
theorem alignMap_quietMap (s : State) :
    (alignMap s).quietMap.base = s.now / binPeriod s.cfg * binPeriod s.cfg ∧
      (alignMap s).quietMap.boundary =
        later (alignMap s).quietMap.base (binPeriod s.cfg) ∧
      (s.windows = [] → (alignMap s).quietMap.bins = List.replicate 32 .clear) :=
  ⟨rfl, rfl, fun hwindows => (congrArg (deriveBins _ _) hwindows).trans (deriveBins_nil _ _)⟩

/-! ### START (R191) -/

/-- With nothing to withdraw or lapse, a report set is the source and the latched cause. -/
theorem reportSet_of_steady {s : State} {src : HoldSource} (hpart : s.part ≠ .config)
    (h : Steady s) (hclear : s.holds.get src = false) : reportSet src s = { s with
      holds := s.holds.put src true, attention := { s.attention with holdLatched := true } } := by
  unfold reportSet
  rw [if_neg (by rw [hclear]; rintro (hc | hc); exacts [hpart hc, nomatch hc])]
  exact heldEffect_of_coherent h.intent h.granted

/-- The part at START before a source is reported: RUNNING, the offset clamped, the intake IDLE, the
link in LISTEN with the first IDLE edition pending. -/
def startedPart (offset : Int) (s : State) : State :=
  let s0 := ((s.withPart .running).withIntake none).modEngine fun e =>
    { e with offset := clampOffset offset }
  let s1 := (s0.modLink (Link.start s.cfg s.now s.pins.light)).modBuilder fun b =>
    { b with claimAge := 0 }
  s1.modLink (Link.write s.pins.laneActive true (content s1))

/-- The storm latch is set as START reports STORM. -/
def stormLatched (s : State) : State := s.modHolds fun h => { h with stormLatch := true }

theorem startPart_eq (offset : Int) (s : State) : startPart offset s =
    let listening := reportSet .link (reportSet .wind (startedPart offset s))
    if stormActive s then reportSet .storm (stormLatched listening) else listening := rfl

/-- With the hold set at reset, START sets WIND and LINK, and STORM with its latch by a level sense. -/
theorem startPart_holds {s : State} (offset : Int) (hidle : s.engine.state = .idle)
    (hholds : s.holds = Holds.reset) : startPart offset s = { startedPart offset s with
      holds := { Holds.reset with
        wind := true, link := true, storm := stormActive s, stormLatch := stormActive s }
      attention := { s.attention with holdLatched := true } } := by
  have hsteady : ∀ u : State, u.engine = (startedPart offset s).engine → Steady u := fun u hu =>
    steady_of_state (st := .idle) (by rw [hu]; exact hidle) nofun nofun
  have hstart : (startedPart offset s).holds = Holds.reset := hholds
  let windy : State := { startedPart offset s with
    holds := { Holds.reset with wind := true }
    attention := { s.attention with holdLatched := true } }
  have hwind : reportSet .wind (startedPart offset s) = windy := by
    rw [reportSet_of_steady (s := startedPart offset s) nofun (hsteady _ rfl) (by rw [hstart]; rfl),
      hstart]
    rfl
  have hlink : reportSet .link (reportSet .wind (startedPart offset s)) =
      { startedPart offset s with
        holds := { Holds.reset with wind := true, link := true }
        attention := { s.attention with holdLatched := true } } := by
    rw [hwind]
    exact reportSet_of_steady (s := windy) (src := .link) nofun (hsteady _ rfl) rfl
  let stormy : State := { startedPart offset s with
    holds := { Holds.reset with wind := true, link := true, stormLatch := true }
    attention := { s.attention with holdLatched := true } }
  rw [startPart_eq]
  dsimp only
  rw [hlink]
  cases stormActive s with
  | false => rfl
  | true => exact reportSet_of_steady (s := stormy) (src := .storm) nofun (hsteady _ rfl) rfl

/-- The first edition begins no attempt, as the link enters LISTEN (R33). -/
theorem startedPart_link {s : State} (offset : Int) (hoff : s.link.trail.current = .off)
    (hidle : s.engine.state = .idle) : (startedPart offset s).link =
      { Link.start s.cfg s.now s.pins.light s.link with
        trail := ⟨.listen, .off, s.link.trail.first, s.link.trail.second⟩
        slot := ⟨some ((startedPart offset s).edition .idle .normal 0
          (startedPart offset s).engine.offset (startedPart offset s).engine.offset), true, false⟩
        sentCurrent := false } := by
  have hcontent := content_idle
    (s := ((((s.withPart .running).withIntake none).modEngine fun e =>
      { e with offset := clampOffset offset }).modLink
        (Link.start s.cfg s.now s.pins.light)).modBuilder fun b => { b with claimAge := 0 })
    (by rw [State.modBuilder_engine]; exact congrArg phaseOf hidle)
  have htrail : (Link.start s.cfg s.now s.pins.light s.link).trail =
      ⟨.listen, .off, s.link.trail.first, s.link.trail.second⟩ := by
    have hpush := Trail.push_of_ne (n := .listen) (t := s.link.trail) (by rw [hoff]; nofun)
    rw [hoff] at hpush
    exact hpush
  unfold startedPart
  dsimp only
  rw [State.modLink_link, Link.write_urgent, hcontent]
  unfold Link.sendsAnew
  rw [← htrail]
  exact if_neg fun h => by
    have hready := h.1
    rw [State.modBuilder_link, State.modLink_link] at hready
    exact nomatch (congrArg Trail.current htrail).symm.trans hready

/-! ### STOP (R156, R192, R193) -/

/-- Outside CONFIG and STOPPING a taken STOP counts the requests removed. -/
theorem execStop_of_running {s : State} (hport : s.port.phase = .noTransaction)
    (hpart : s.part = .running) : execStop s = .next (reply .ok
      (byteOf (s.queue.length - (keptAtStop s.queue).length))
      (checkStopWork (stopEngine (s.withPart .stopping)))) := by
  unfold execStop
  rw [portCommand_taken _ hport, hpart]

theorem Request.modSweep_position (f : SweepJob → SweepJob) (r : Request) :
    (r.modSweep f).position = r.position := by
  unfold Request.modSweep
  split <;> rfl

theorem mem_keptAtStop {q : List Request} {x : Request} (hx : x ∈ keptAtStop q) :
    x.position = .moving ∧ x.endsAtStop = true := by
  obtain ⟨r, hr, rfl⟩ := List.mem_map.1 hx
  have hmoving : r.position = .moving := of_decide_eq_true (List.mem_filter.1 hr).2
  exact ⟨(Request.modSweep_position _ r).trans hmoving, endsAtStop_cancelPending r⟩

/-- A move in MOVING and the park run on (R156). -/
theorem stopEngine_of_runs_on {s : State} (h : s.engine.state = .moving ∨
    (s.engine.state = .granted ∧ s.engine.work = .park)) : stopEngine s = { s with
      queue := keptAtStop s.queue, engine := { s.engine with yieldPause := none } } := by
  unfold stopEngine
  rcases h with hstate | ⟨hstate, hwork⟩
  · rw [hstate]
    rfl
  · rw [hstate, hwork]
    rfl

theorem stopEngine_queue (s : State) : (stopEngine s).queue = keptAtStop s.queue := by
  unfold stopEngine
  dsimp only
  split <;> rfl

theorem checkStopWork_of_not_idle {s : State} (h : s.engine.state ≠ .idle) :
    checkStopWork s = s := if_neg fun hc => h hc.2.2.1

theorem checkStopWork_of_done {s : State} (hpart : s.part = .stopping) (hfinal : s.link.final = .none)
    (hstate : s.engine.state = .idle) (hpark : s.holds.parkLatch = false) :
    checkStopWork s = requestFinal s := if_pos ⟨hpart, hfinal, hstate, hpark⟩

/-- The part at a STOP whose work is complete: the queue empty and the engine at rest, the tag of a
grant that lapses kept (R156). -/
def stoppedWith (s : State) (l : Link) : State :=
  { s with
    part := .stopping
    queue := []
    link := l
    engine := { s.engine with
      state := .idle, work := .none, grant := none, holdOff := none, expired := false
      echo := false, yieldPause := none, startTimeout := none, settle := none
      lapsedTag := if s.engine.state = .granted then s.engine.grant.map Grant.tag
        else s.engine.lapsedTag } }

/-- What STOP does with an engine that neither moves nor holds the park's grant: an intent, a normal
grant and settling end with IDLE announced (R156). -/
theorem stopEngine_of_ends {s : State} (h : EngineCoherent s) (hmoving : s.engine.state ≠ .moving)
    (hpark : ¬(s.engine.state = .granted ∧ s.engine.work = .park)) :
    ∃ l, stopEngine (s.withPart .stopping) = stoppedWith s l ∧
      ((s.engine.state = .idle ∨ s.engine.state = .waiting) → l = s.link) ∧
      ((s.engine.state ≠ .idle ∧ s.engine.state ≠ .waiting) →
        AnnouncedIdle s (stoppedWith s l)) := by
  have hstand := standing_of_coherent h
  generalize hq : s.queue = q at hstand
  cases hstand with
  | idle state work released =>
    obtain ⟨⟨holdOff, expired, echo⟩, grant, startTimeout, overrun, settle⟩ := released
    refine ⟨s.link, ?_, fun _ => rfl, fun hc => absurd state hc.1⟩
    simp [stopEngine, stoppedWith, State.withPart, State.modQueue, State.modEngine, keptAtStop, *]
  | waiting state work released part position queued =>
    obtain ⟨⟨holdOff, expired, echo⟩, grant, startTimeout, overrun, settle⟩ := released
    have hkept := keptAtStop_cons (by rw [position]; nofun) queued
    refine ⟨s.link, ?_, fun _ => rfl, fun hc => absurd state hc.2⟩
    simp [stopEngine, stoppedWith, State.withPart, State.modQueue, State.modEngine, *]
  | intent state work grant startTimeout overrun settle part position deferred queued =>
    have hkept := keptAtStop_cons (by rw [position]; nofun) queued
    refine ⟨(withdraw (s.withPart .stopping)).link, ?_, ?_, fun _ => ?_⟩
    · simp [stopEngine, stoppedWith, withdraw, announce, headAt, State.withPart, State.modQueue,
        State.modEngine, State.modLink, *]
    · rw [state]
      rintro (hc | hc) <;> cases hc
    · exact announce_idle (s0 := s) rfl rfl rfl
  | granted state work grant names unmarked startTimeout overrun settle part position deferred
      queued =>
    obtain ⟨holdOff, expired, echo⟩ := unmarked
    have hkept := keptAtStop_cons (by rw [position]; nofun) queued
    refine ⟨(lapse (s.withPart .stopping)).link, ?_, ?_, fun _ => ?_⟩
    · simp [stopEngine, stoppedWith, lapse, announce, headAt, State.withPart, State.modQueue,
        State.modEngine, State.modLink, *]
    · rw [state]
      rintro (hc | hc) <;> cases hc
    · exact announce_idle (s0 := s) rfl rfl rfl
  | grantedPark state work => exact absurd ⟨state, work⟩ hpark
  | moving state => exact absurd state hmoving
  | movingPark state => exact absurd state hmoving
  | settling state work grant unmarked startTimeout overrun settle part position sweep deferred
      queued =>
    obtain ⟨holdOff, expired, echo⟩ := unmarked
    have hkept := keptAtStop_cons (by rw [position]; nofun) queued
    refine ⟨(stopEngine (s.withPart .stopping)).link, ?_, ?_, fun _ => ?_⟩
    · simp [stopEngine, stoppedWith, announce, State.withPart, State.modQueue, State.modEngine,
        State.modLink, *]
    · rw [state]
      rintro (hc | hc) <;> cases hc
    · unfold stopEngine
      rw [State.withPart_engine, state]
      exact announce_idle (s0 := s) rfl rfl rfl
  | settlingAlone state work grant unmarked startTimeout overrun settle part queued =>
    obtain ⟨holdOff, expired, echo⟩ := unmarked
    have hkept := keptAtStop_of_queued queued
    refine ⟨(stopEngine (s.withPart .stopping)).link, ?_, ?_, fun _ => ?_⟩
    · simp [stopEngine, stoppedWith, announce, State.withPart, State.modQueue, State.modEngine,
        State.modLink, *]
    · rw [state]
      rintro (hc | hc) <;> cases hc
    · unfold stopEngine
      rw [State.withPart_engine, state]
      exact announce_idle (s0 := s) rfl rfl rfl

theorem requestFinal_modPort (g : Port → Port) (s : State) :
    requestFinal (s.modPort g) = (requestFinal s).modPort g := by
  have hstage : ∀ u : State, (u.modLink (Link.writeFinal (content u))).link.stage = u.link.stage :=
    fun _ => rfl
  unfold requestFinal
  refine ite_modPort g ?_ rfl
  dsimp only
  rw [hstage, hstage, State.modPort_link]
  cases s.link.stage <;> rfl

theorem Announced.link_keeps {s t : State} {p : Phase} {c : Cls} {age : Nat} {a b : Int}
    (h : Announced s t p c age a b) :
    t.link.trail = s.link.trail ∧ t.link.final = s.link.final := by
  have hsends : ∀ e, (s.link.sendsAnew s.pins.laneActive e).trail = s.link.trail ∧
      (s.link.sendsAnew s.pins.laneActive e).final = s.link.final := fun e => by
    rw [← Link.write_urgent]
    obtain ⟨htrail, hrest⟩ := s.link.write_keeps s.pins.laneActive true e
    exact ⟨htrail, by
      unfold Link.write
      dsimp only
      split
      · rw [Link.beginAttempt_eq]
        unfold Link.attempting
        dsimp only
        split <;> rfl
      · rfl⟩
  unfold Announced at h
  dsimp only at h
  split at h
  · rw [h]; exact hsends _
  · split at h
    · split at h <;> rw [h] <;> exact ⟨rfl, rfl⟩
    · rw [h]; exact hsends _

/-- A READY link waits for the final announcement with the part as it was; any other ends in CONFIG. -/
theorem FinalRequested.part_final {s t : State} (h : FinalRequested s t) :
    (s.link.trail.current = .ready → t.part = s.part ∧ t.link.final ≠ .none) ∧
      (s.link.trail.current ≠ .ready → t.part = .config ∧ t.link.trail.current = .off) := by
  obtain ⟨hbusy, hfree, hother⟩ := h
  refine ⟨fun hready => ?_, fun hnot => ?_⟩
  · by_cases hb : s.link.stage = .send ∨ s.link.stage = .echoWait
    · rw [hbusy hready hb]
      exact ⟨rfl, nofun⟩
    · rw [hfree hready hb]
      unfold Link.attempting
      dsimp only
      split <;> exact ⟨rfl, nofun⟩
  · have hconfig := hother hnot
    unfold ConfigEntered at hconfig
    rw [hconfig]
    refine ⟨rfl, ?_⟩
    dsimp only
    split
    · assumption
    · rfl

end Sys2Proof.Machine

section
open Sys2Proof Sys2Proof.Machine

/-- Settles O6: the stored record clamped field by field, the map and LOST by their conditions. -/
theorem configureStoresRecord : Obligations.ConfigureStoresRecord := by
  unfold Obligations.ConfigureStoresRecord
  intro r s hport hpart
  have hexec : exec (.configure r) s = .next (reply .ok (configBytes (storeConfig r s.cfg))
      (applyConfig (storeConfig r s.cfg) s)) := by
    change execConfigure r s = _
    unfold execConfigure
    rw [portCommand_taken _ hport, hpart]
  rw [applyConfig_eq] at hexec
  refine ⟨_, hexec, rfl, rfl, length_configBytes _, rfl, clampNat_zero _ _, clampNat_zero _ _, rfl,
    rfl, rfl, rfl, clampNat_zero _ _, clampNat_zero _ _, rfl, clampNat_zero _ _, clampNat_zero _ _,
    rfl, rfl, rfl, rfl, storeCode_succ 7 _ _, clampNat_zero _ _, rfl, clampNat_zero _ _, rfl, rfl,
    storeCode_succ 3 _ _, rfl, clampNat_zero _ _, rfl, rfl, rfl, rfl, rfl, rfl, rfl, rfl,
    fun hsame => if_pos hsame.symm, fun hother => ?_, rfl⟩
  have hmap := alignMap_quietMap (s.withConfig (storeConfig r s.cfg))
  rw [← if_neg (c := s.cfg.periodCode = (storeConfig r s.cfg).periodCode) (fun h => hother h.symm)
    (t := s.quietMap) (e := (alignMap (s.withConfig (storeConfig r s.cfg))).quietMap)] at hmap
  exact hmap

/-- Settles O9: the sources are reported on an engine at rest, so each only joins the hold set. -/
theorem startEntersRunning : Obligations.StartEntersRunning := by
  unfold Obligations.StartEntersRunning
  intro offset s hport hpart
  have hexec : exec (.start offset) s = .next
      (if s.cfg.station = 0 then s.answering [14] else answerOk (startPart offset.toInt s)) := by
    change execStart offset s = _
    unfold execStart
    rw [portCommand_taken _ hport, hpart]
    rfl
  refine ⟨fun hnone => by rw [hexec, if_pos hnone], fun hstation hrest => ?_⟩
  obtain ⟨hoff, hstage, hslot, hfinal, hbuffer, -, -, -, hrefresh, hidle, hwork, -, -, -, -, -, -, -,
    -, hholds, -⟩ := hrest hpart
  rw [if_neg hstation, startPart_holds _ hidle hholds] at hexec
  refine ⟨_, hexec, rfl, rfl, rfl, ?_⟩
  have hlink := startedPart_link offset.toInt hoff hidle
  have hstorm : stormActive s = decide ((s.cfg.stormSense = .high ∧ s.pins.storm = true) ∨
      (s.cfg.stormSense = .low ∧ s.pins.storm = false)) :=
    Bool.eq_iff_iff.2 ((stormActive_iff s).trans decide_eq_true_iff.symm)
  rw [← hstorm]
  dsimp only
  rw [hlink]
  exact ⟨rfl, rfl, rfl, rfl, rfl, rfl, hstage, hrefresh, rfl, rfl, rfl⟩

/-- Settles O10: the work that runs on leaves the engine out of IDLE, so no announcement is due. -/
theorem stopLetsTheMoveRunOn : Obligations.StopLetsTheMoveRunOn := by
  unfold Obligations.StopLetsTheMoveRunOn
  intro s hport hpart hruns
  refine ⟨fun x hx => mem_keptAtStop hx, (execStop_of_running hport hpart).trans ?_⟩
  rw [stopEngine_of_runs_on (s := s.withPart .stopping) hruns, checkStopWork_of_not_idle ?_]
  · rfl
  · rcases hruns with hstate | ⟨hstate, -⟩
    all_goals exact fun hidle => nomatch hstate.symm.trans hidle

/-- Settles O11: the work ends at once, and the final announcement is requested in the same event. -/
theorem stopRequestsTheFinalAnnouncement : Obligations.StopRequestsTheFinalAnnouncement := by
  unfold Obligations.StopRequestsTheFinalAnnouncement
  intro s hport hpart hlawful hmoving hgranted hpark hfinal
  obtain ⟨-, -, -, -, hcoherent⟩ := hlawful
  obtain ⟨l, hstop, hsame, hannounced⟩ := stopEngine_of_ends hcoherent hmoving hgranted
  have hlink : l.trail = s.link.trail ∧ l.final = s.link.final := by
    by_cases hstill : s.engine.state = .idle ∨ s.engine.state = .waiting
    · rw [hsame hstill]
      exact ⟨rfl, rfl⟩
    · exact (hannounced (not_or.1 hstill)).link_keeps
  obtain ⟨htrail, hlfinal⟩ := hlink
  have hkept : keptAtStop s.queue = [] :=
    (stopEngine_queue (s.withPart .stopping)).symm.trans (congrArg State.queue hstop)
  have hexec : exec .stop s = .next (requestFinal ((stoppedWith s l).modPort fun _ =>
      ⟨.taken, [0, BitVec.ofNat 8 s.queue.length]⟩)) := by
    refine (execStop_of_running hport hpart).trans ?_
    rw [hstop, checkStopWork_of_done (s := stoppedWith s l) rfl (hlfinal.trans hfinal) rfl hpark,
      requestFinal_modPort, hkept]
    rfl
  have hrequested := requestFinal_finalRequested (s := (stoppedWith s l).modPort fun _ =>
    ⟨.taken, [0, BitVec.ofNat 8 s.queue.length]⟩) rfl
  obtain ⟨hready, hother⟩ := hrequested.part_final
  refine ⟨_, l, hexec, hsame, hannounced, hrequested, fun h => hready ?_, fun h => hother ?_⟩
  · exact (congrArg Trail.current htrail).trans h
  · exact fun hc => h ((congrArg Trail.current htrail).symm.trans hc)

end
end

section
/-! SUPPORT. The falling edge on PARK: PARKED at once, the latch alone, or the park's grant. -/

namespace Sys2Proof.Machine

/-! ### Announcements in a row -/

/-- Two writes for sending begin the one attempt (R33). -/
theorem Link.sendsAnew_sendsAnew (lane : Bool) (e1 e2 : Edition) (l : Link) :
    (l.sendsAnew lane e1).sendsAnew lane e2 = l.sendsAnew lane e2 := by
  by_cases h : l.trail.current = .ready ∧ l.stage = .idle
  · have hattempt : ∀ e, l.sendsAnew lane e = Link.attempting lane
        { l with slot := ⟨some e, true, false⟩, sentCurrent := false } := fun e => if_pos h
    rw [hattempt, hattempt]
    unfold Link.sendsAnew Link.attempting
    cases lane
    · exact if_neg fun hc => nomatch hc.2
    · exact if_neg fun hc => nomatch hc.2
  · have hwrite : ∀ e, l.sendsAnew lane e =
        { l with slot := ⟨some e, true, false⟩, sentCurrent := false } := fun e => if_neg h
    rw [hwrite, hwrite]
    exact if_neg h

theorem Link.sendsAnew_edition (lane : Bool) (e : Edition) (l : Link) :
    (l.sendsAnew lane e).slot.edition = some e := by
  unfold Link.sendsAnew Link.attempting
  dsimp only
  split
  · split <;> rfl
  · rfl

/-- What an announcement leaves of the link: the phase of its edition, and a link on which a further
send falls as on the one before. -/
theorem Link.announce_spec (lane : Bool) (e : Edition) (l : Link) :
    (∃ e', (l.announce lane e).slot.edition = some e' ∧ e'.phase = e.phase) ∧
      ∀ e2, (l.announce lane e).sendsAnew lane e2 = l.sendsAnew lane e2 := by
  have hsends : (∃ e', (l.write lane true e).slot.edition = some e' ∧ e'.phase = e.phase) ∧
      ∀ e2, (l.write lane true e).sendsAnew lane e2 = l.sendsAnew lane e2 := by
    rw [Link.write_urgent]
    exact ⟨⟨e, Link.sendsAnew_edition lane e l, rfl⟩, fun e2 => Link.sendsAnew_sendsAnew lane e e2 l⟩
  unfold Link.announce
  cases hslot : l.slot.edition with
  | none => exact hsends
  | some old =>
    dsimp only
    split
    · exact hsends
    · next hsame =>
      split
      · rw [Link.write_quiet]
        exact ⟨⟨e, rfl, rfl⟩, fun e2 => rfl⟩
      · exact ⟨⟨old, hslot, not_not.1 (not_or.1 hsame).1⟩, fun _ => rfl⟩

/-- An announcement in another phase than the one just announced is sent as if it were the only one. -/
theorem Link.announce_announce {e1 e2 : Edition} (h : e1.phase ≠ e2.phase) (lane : Bool) (l : Link) :
    (l.announce lane e1).announce lane e2 = l.sendsAnew lane e2 := by
  obtain ⟨⟨e', hedition, hphase⟩, hsend⟩ := Link.announce_spec lane e1 l
  rw [← hsend e2, ← Link.write_urgent]
  generalize l.announce lane e1 = m at hedition
  unfold Link.announce
  rw [hedition]
  exact if_pos (.inl (by rw [hphase]; exact h))

/-! ### The entry to the park's grant (R167, R169) -/

/-- The part at the entry to the park's grant, before it is announced. -/
def parkGranted (s : State) : State :=
  { s with
    holds := { s.holds with parkGrantedAt := some s.now }
    builder := { s.builder with
      move := s.builder.move + 1, refs := { s.builder.refs with startTimeout := none } }
    queue := if s.engine.work = .request then modFront Request.displacedByPark s.queue else s.queue
    engine := { s.engine with
      state := .granted, work := .park, grant := some (parkGrant s)
      echo := false, expired := false, settle := none } }

theorem enterGrantedPark_eq (s : State) : enterGrantedPark s = announce (parkGranted s) := by
  unfold enterGrantedPark parkGranted
  cases s.engine.work <;> rfl

theorem enterGrantedPark_link (s : State) :
    enterGrantedPark s = { parkGranted s with link := (enterGrantedPark s).link } := by
  rw [enterGrantedPark_eq]
  rfl

theorem content_parkGranted (s : State) : content (parkGranted s) =
    (parkGranted s).edition .committed .priority 0 s.engine.offset (parkTarget s.cfg) :=
  content_grant (g := parkGrant s) rfl nofun nofun rfl

theorem modFront_modFront (f g : Request → Request) (q : List Request) :
    modFront f (modFront g q) = modFront (fun r => f (g r)) q := by
  cases q <;> rfl

theorem displacedByPark_at (p : Position) (r : Request) :
    (r.at p).displacedByPark = r.displacedByPark := rfl

/-! ### The edge (R166 to R168, R173) -/

/-- The part as the park is latched and reported, before the engine acts on it. -/
def parkLatched (s : State) : State :=
  { s with
    holds := { s.holds with park := true, parkLatch := true, parkLatchedAt := some s.now }
    attention := { s.attention with holdLatched := true } }

/-- With the target off, or in MOVING, the edge sets the latch and the source. -/
theorem servePark_of_latched {s : State} (hpart : s.part ≠ .config) (hpark : s.holds.park = false)
    (h : ¬(parkTarget s.cfg = s.engine.offset ∧ s.engine.state ≠ .moving)) : servePark s =
      if (heldEffect (parkLatched s)).engine.state = .moving then heldEffect (parkLatched s)
      else enterGrantedPark (heldEffect (parkLatched s)) := by
  have hset : reportSet .park
      (s.modHolds fun h => { h with parkLatch := true, parkLatchedAt := some s.now }) =
        heldEffect (parkLatched s) :=
    if_neg (not_or.2 ⟨hpart, fun hc => Bool.false_ne_true (hpark.symm.trans hc)⟩)
  unfold servePark
  rw [if_neg h]
  dsimp only
  rw [hset]
  split
  · next hmoving => exact (if_pos hmoving).symm
  all_goals next hother => exact (if_neg (by rw [hother]; nofun)).symm

theorem execParkFallingEdge_of_observed {s : State} (hpart : s.part ≠ .config)
    (hfinal : s.link.final = .none) (hlatch : s.holds.parkLatch = false) :
    exec .parkFallingEdge s = .next (checkStopWork (servePark s)) :=
  by
  change execParkFallingEdge s = _
  unfold execParkFallingEdge
  rw [if_pos ⟨(linesObserved_iff s).2 ⟨hpart, hfinal⟩, hlatch⟩]

theorem enterGrantedPark_not_idle (s : State) : (enterGrantedPark s).engine.state ≠ .idle := by
  rw [enterGrantedPark_engine]
  nofun

/-- A report leaves the park's latch. -/
theorem parkLatch_recordOffered {s t : State} {r : OutcomeRecord} (h : RecordOffered s t r) :
    t.holds.parkLatch = s.holds.parkLatch := by
  rw [h.1]
  rfl

/-- An offer finds the engine idle only as it was before. -/
theorem RecordOffered.of_idle {s t : State} {r : OutcomeRecord} (h : RecordOffered s t r)
    (hidle : s.engine.state = .idle) : t.engine = s.engine ∧ t.link = s.link := by
  obtain ⟨-, hsame, heffect⟩ := h
  by_cases hholds : s.holdsOffered r = s.holds
  · obtain ⟨hengine, -, hlink⟩ := hsame hholds
    exact ⟨hengine, hlink⟩
  · have htakes := heffect hholds
    unfold HoldTakesEffect at htakes
    rw [if_neg (by rw [hidle]; nofun), if_neg (by rw [hidle]; exact fun hc => nomatch hc.1)] at htakes
    obtain ⟨hengine, -, hlink⟩ := htakes
    exact ⟨hengine, hlink⟩

theorem RecordOffered.not_idle {s t : State} {r : OutcomeRecord} (h : RecordOffered s t r)
    (hbusy : s.engine.state ≠ .idle) : t.engine.state ≠ .idle := by
  obtain ⟨-, hsame, heffect⟩ := h
  by_cases hholds : s.holdsOffered r = s.holds
  · rw [(hsame hholds).1]
    exact hbusy
  · have htakes := heffect hholds
    unfold HoldTakesEffect at htakes
    split at htakes
    · rw [htakes.1]; nofun
    · split at htakes
      · rw [htakes.1]; nofun
      · rw [htakes.1]; exact hbusy

/-- The look whether STOP's work is complete, after a record is offered (R156, R192). -/
theorem checkStopWork_of_offered {s u : State} {r : OutcomeRecord} (hoffer : RecordOffered s u r)
    (hfinal : s.link.final = .none) (hlatch : s.holds.parkLatch = false) :
    ((s.part = .running ∨ s.engine.state ≠ .idle) → checkStopWork u = u) ∧
      (s.part = .stopping → s.engine.state = .idle → FinalRequested u (checkStopWork u)) := by
  have hpart : u.part = s.part := by rw [hoffer.1]
  refine ⟨?_, fun hstopping hidle => ?_⟩
  · rintro (hrunning | hbusy)
    · exact if_neg fun h => absurd (hpart.symm.trans h.1) (by rw [hrunning]; nofun)
    · exact checkStopWork_of_not_idle (hoffer.not_idle hbusy)
  · obtain ⟨hengine, hlink⟩ := hoffer.of_idle hidle
    have hstate : u.engine.state = .idle := by rw [hengine, hidle]
    rw [checkStopWork_of_done (hpart.trans hstopping) (by rw [hlink, hfinal]) hstate
      ((parkLatch_recordOffered hoffer).trans hlatch)]
    exact requestFinal_finalRequested (by rw [hstate]; rfl)

/-- The edge gives the part the park's grant, in every state but MOVING and the park's own GRANTED
(R167, R169). -/
def edgeGranted (s : State) (l : Link) : State :=
  { s with
    holds := { s.holds with
      park := true, parkLatch := true, parkLatchedAt := some s.now, parkGrantedAt := some s.now }
    attention := { s.attention with holdLatched := true }
    builder := { s.builder with
      move := s.builder.move + 1, refs := { s.builder.refs with startTimeout := none } }
    queue := if s.engine.work = .request then modFront Request.displacedByPark s.queue
      else if s.engine.state = .intent then
        modFront (fun r => r.at .waiting) s.queue
      else s.queue
    link := l
    engine := { s.engine with
      state := .granted, work := .park, expired := false, echo := false, settle := none
      holdOff := if s.engine.state = .intent then none else s.engine.holdOff
      startTimeout := if s.engine.state = .granted then none else s.engine.startTimeout
      lapsedTag := if s.engine.state = .granted then
        (s.engine.grant.map Grant.tag).or s.engine.lapsedTag else s.engine.lapsedTag
      grant := some (parkGrant s) } }

/-- With an intent or a normal grant given up, the grant is announced after IDLE in the one event. -/
theorem enterGrantedPark_announced_twice {u : State} (hu : phaseOf u.engine.state = .idle) :
    (enterGrantedPark (announce u)).link = u.link.sendsAnew u.pins.laneActive
      ((parkGranted u).edition .committed .priority 0 u.engine.offset (parkTarget u.cfg)) := by
  rw [enterGrantedPark_eq]
  change Link.announce u.pins.laneActive (content (parkGranted (announce u)))
    (Link.announce u.pins.laneActive (content u) u.link) = _
  rw [content_parkGranted, content_idle hu]
  exact Link.announce_announce (e1 := u.edition .idle .normal 0 _ _)
    (e2 := (parkGranted u).edition .committed .priority 0 _ _) (fun h => (nomatch h)) _ _

theorem enterGrantedPark_of_edge {s : State} (hmoving : s.engine.state ≠ .moving)
    (hgranted : s.engine.state = .granted → s.engine.work = .request) :
    ∃ l, enterGrantedPark (heldEffect (parkLatched s)) = edgeGranted s l ∧
      (heldEffect (parkLatched s)).engine.state ≠ .moving ∧
      (s.engine.state ≠ .intent → s.engine.state ≠ .granted →
        Announced s (edgeGranted s l) .committed .priority 0 s.engine.offset (parkTarget s.cfg)) ∧
      ((s.engine.state = .intent ∨ s.engine.state = .granted) →
        l = s.link.sendsAnew s.pins.laneActive ((edgeGranted s l).edition .committed .priority 0
          s.engine.offset (parkTarget s.cfg))) := by
  refine ⟨(enterGrantedPark (heldEffect (parkLatched s))).link, ?_⟩
  by_cases hintent : s.engine.state = .intent
  · have heffect : heldEffect (parkLatched s) = withdraw (parkLatched s) := by
      unfold heldEffect
      rw [show (parkLatched s).engine.state = .intent from hintent]
    rw [heffect]
    refine ⟨?_, nofun, fun h => absurd hintent h,
      fun _ => enterGrantedPark_announced_twice rfl⟩
    rw [enterGrantedPark_link]
    by_cases hwork : s.engine.work = .request <;>
      simp [edgeGranted, parkGranted, parkGrant, withdraw, headAt, announce, parkLatched,
        modFront_modFront, displacedByPark_at, hintent, hwork]
  · by_cases hgrant : s.engine.state = .granted
    · have hwork := hgranted hgrant
      have heffect : heldEffect (parkLatched s) = lapse (parkLatched s) := by
        unfold heldEffect
        rw [show (parkLatched s).engine.state = .granted from hgrant,
          show (parkLatched s).engine.work = .request from hwork]
      rw [heffect]
      refine ⟨?_, nofun, fun _ h => absurd hgrant h,
        fun _ => enterGrantedPark_announced_twice rfl⟩
      rw [enterGrantedPark_link]
      simp [edgeGranted, parkGranted, parkGrant, lapse, headAt, announce, parkLatched,
        modFront_modFront, displacedByPark_at, hgrant, hwork]
    · rw [heldEffect_of_coherent (s := parkLatched s) hintent fun h => hgrant h.1]
      refine ⟨?_, hmoving, fun _ _ => ?_, fun h => (h.elim hintent hgrant).elim⟩
      · rw [enterGrantedPark_link]
        by_cases hwork : s.engine.work = .request <;>
          simp [edgeGranted, parkGranted, parkGrant, parkLatched, hintent, hgrant, hwork]
      · rw [enterGrantedPark_eq]
        exact announce_announced (s0 := s) (s := parkGranted (parkLatched s)) rfl rfl
          (content_parkGranted _)

end Sys2Proof.Machine

section
open Sys2Proof Sys2Proof.Machine

/-- Settles O39, by the branches of the edge: PARKED at once, the latch in MOVING, the park's grant. -/
theorem parkEdgeServesPark : Obligations.ParkEdgeServesPark := by
  unfold Obligations.ParkEdgeServesPark
  intro s
  refine ⟨fun hignored => ?_, fun hpart hfinal hlatch hpark => ?_⟩
  · change execParkFallingEdge s = _
    unfold execParkFallingEdge
    rw [if_neg]
    rintro ⟨hobserved, hclear⟩
    obtain ⟨hpart, hfinal⟩ := (linesObserved_iff s).1 hobserved
    rcases hignored with h | h | h
    exacts [hpart h, h hfinal, Bool.false_ne_true (hclear.symm.trans h)]
  have hexec := execParkFallingEdge_of_observed hpart hfinal hlatch
  have hparked : parkTarget s.cfg = s.engine.offset → s.engine.state ≠ .moving →
      servePark s = offer ⟨0, .park, .parked, s.engine.offset, 0, 0, 0⟩ s :=
    fun htarget hmoving => if_pos ⟨htarget, hmoving⟩
  have hoffer := offer_recordOffered hpart ⟨0, .park, .parked, s.engine.offset, 0, 0, 0⟩
  obtain ⟨hon, hdone⟩ := checkStopWork_of_offered hoffer hfinal hlatch
  refine ⟨fun htarget hmoving hroom => ?_, fun htarget hmoving => ?_, fun hmoving => ?_,
    fun htarget hmoving hgranted => ?_⟩
  · rw [hparked htarget hmoving] at hexec
    rw [offer_of_room hroom] at hexec hon hdone
    exact ⟨fun h => by rw [hexec, hon h], fun hstopping hidle => ⟨_, hexec, hdone hstopping hidle⟩⟩
  · rw [hparked htarget hmoving] at hexec
    exact ⟨_, _, hexec, hoffer, hon, hdone⟩
  · have heffect : heldEffect (parkLatched s) = parkLatched s :=
      heldEffect_of_coherent (fun h => nomatch hmoving.symm.trans h)
        fun h => nomatch hmoving.symm.trans h.1
    rw [hexec, servePark_of_latched hpart hpark fun h => h.2 hmoving, heffect,
      if_pos (show (parkLatched s).engine.state = .moving from hmoving),
      checkStopWork_of_not_idle (s := parkLatched s) fun h => nomatch hmoving.symm.trans h]
    rfl
  · obtain ⟨l, heq, hstill, hannounced, hsent⟩ := enterGrantedPark_of_edge hmoving hgranted
    have hidle := enterGrantedPark_not_idle (heldEffect (parkLatched s))
    rw [servePark_of_latched hpart hpark fun h => htarget h.1, if_neg hstill,
      checkStopWork_of_not_idle hidle, heq] at hexec
    exact ⟨_, hexec, hannounced, hsent, rfl⟩

end
end

section
/-! SUPPORT. ENDED: the offset reached, the front request's step, and what the engine does next. -/

namespace Sys2Proof.Machine

/-! ### The arrival (steps 1 to 3 of R154) -/

/-- The part once the achieved offset is the current offset. -/
def reached (a : Int) (s : State) : State :=
  { s with
    engine := { s.engine with offset := a, overrun := none }
    builder := { s.builder with refs := { s.builder.refs with ended := some s.now } } }

/-- The part after an arrival outside the tolerance: BAD-ENDED raised, and HALT set if it is FATAL. -/
def reachedBadly (a : Int) (g : Grant) (s : State) : State :=
  { reached a s with
    recorder := s.recorder.raised s.cfg s.now .badEnded ⟨none, none, some g.tag⟩
    holds := if setsHalt s.cfg .badEnded then { s.holds with halt := true } else s.holds
    attention := { s.attention with
      holdLatched := s.attention.holdLatched || (setsHalt s.cfg .badEnded && !s.holds.halt) } }

theorem reachOffset_within {a : Int} {g : Grant} {s : State}
    (h : (a - g.target).natAbs ≤ s.cfg.endedTolerance) : reachOffset a g s = reached a s :=
  if_neg (not_lt.2 h)

theorem reachOffset_outside {a : Int} {g : Grant} {s : State} (hpart : s.part ≠ .config)
    (hstate : s.engine.state = .moving) (h : s.cfg.endedTolerance < (a - g.target).natAbs) :
    reachOffset a g s = reachedBadly a g s := by
  have hmoving : (reached a s).engine.state = .moving := hstate
  have hraised := raiseFault_of_steady (s := reached a s) hpart (by rw [hmoving]; nofun)
    (fun hc => nomatch hmoving.symm.trans hc.1) .badEnded (tagContext g.tag)
  exact (if_pos h).trans hraised

/-- An arrival, within the tolerance or not, as one update of the reports. -/
theorem reachOffset_reports {s : State} (a : Int) (g : Grant) (hpart : s.part ≠ .config)
    (hstate : s.engine.state = .moving) : ∃ f h n, reachOffset a g s =
      { reached a s with recorder := f, holds := h, attention := n } ∧
      f = (if s.cfg.endedTolerance < (a - g.target).natAbs then
        s.recorder.raised s.cfg s.now .badEnded ⟨none, none, some g.tag⟩ else s.recorder) ∧
      (((a - g.target).natAbs ≤ s.cfg.endedTolerance ∨ setsHalt s.cfg .badEnded = false) →
        h = s.holds ∧ n = s.attention) ∧
      h.parkLatch = s.holds.parkLatch := by
  by_cases hbad : s.cfg.endedTolerance < (a - g.target).natAbs
  · refine ⟨_, _, _, reachOffset_outside hpart hstate hbad, (if_pos hbad).symm, ?_, ?_⟩
    · rintro (hgood | hmild)
      · exact absurd hbad (not_lt.2 hgood)
      · rw [hmild]
        exact ⟨rfl, by rw [Bool.false_and, Bool.or_false]⟩
    · split <;> rfl
  · exact ⟨_, _, _, reachOffset_within (not_lt.1 hbad), (if_neg hbad).symm, fun _ => ⟨rfl, rfl⟩, rfl⟩

/-! ### The front request's step (step 4 of R154, R125, R126) -/

section Step
variable {r : Request} {w : SweepJob} {now : Nat}

theorem afterEnded_of_move {m : MoveJob} (hjob : r.job = .move m) :
    r.afterEnded now = (r, some .done) ∧ r.extends = false := by
  unfold Request.afterEnded Request.extends
  rw [hjob]
  exact ⟨rfl, rfl⟩

theorem afterEnded_of_cancelPending (hjob : r.job = .sweep w) (hcancel : w.cancelPending = true) :
    r.afterEnded now = ({ r with job := .sweep (w.afterStep now) }, some .cancelled) ∧
      r.extends = false := by
  unfold Request.afterEnded Request.extends
  rw [hjob]
  dsimp only
  rw [hcancel]
  exact ⟨rfl, rfl⟩

/-- No extension stands at the last step. -/
theorem afterEnded_of_last (hjob : r.job = .sweep w) (hcancel : w.cancelPending = false)
    (hcount : w.count ≠ 0) (hlast : (w.afterStep now).remaining = 0) (hnone : w.extension = 0) :
    r.afterEnded now = ({ r with job := .sweep (w.afterStep now) }, some .sweepDone) ∧
      r.extends = false := by
  unfold Request.afterEnded Request.extends
  rw [hjob]
  dsimp only
  rw [hcancel, hnone, if_neg Bool.false_ne_true, if_pos ⟨hcount, hlast⟩]
  exact ⟨rfl, by simp⟩

theorem remaining_afterStep (hcount : w.count ≠ 0) :
    (w.afterStep now).remaining = w.remaining - 1 := if_neg hcount

theorem afterEnded_of_extension (hjob : r.job = .sweep w) (hcancel : w.cancelPending = false)
    (hcount : w.count ≠ 0) (hlast : (w.afterStep now).remaining = 0) (hext : 0 < w.extension) :
    r.afterEnded now = ({ r with
      job := .sweep { w.afterStep now with remaining := w.extension, extension := 0 }
      yields := 0 }, none) ∧ r.extends = true := by
  have hleft : w.remaining - 1 = 0 := (remaining_afterStep hcount).symm.trans hlast
  unfold Request.afterEnded Request.extends
  rw [hjob]
  dsimp only
  rw [hcancel, if_neg Bool.false_ne_true, if_pos ⟨hcount, hlast⟩, if_neg (by omega)]
  exact ⟨rfl, by simp [hcount, hleft, hext]⟩

theorem afterEnded_of_steps_left (hjob : r.job = .sweep w) (hcancel : w.cancelPending = false)
    (hleft : ¬(w.count ≠ 0 ∧ (w.afterStep now).remaining = 0)) :
    r.afterEnded now = ({ r with job := .sweep (w.afterStep now), yields := 0 }, none) ∧
      r.extends = false := by
  unfold Request.afterEnded Request.extends
  rw [hjob]
  dsimp only
  rw [hcancel, if_neg Bool.false_ne_true, if_neg hleft]
  refine ⟨rfl, ?_⟩
  by_cases hcount : w.count = 0
  · simp [hcount]
  · have hmore : w.remaining - 1 ≠ 0 := fun h =>
      hleft ⟨hcount, (remaining_afterStep hcount).trans h⟩
    simp [hcount, hmore]

end Step

/-- The request as its move ends goes by the same tag. -/
theorem afterEnded_tag (r : Request) (now : Nat) : (r.afterEnded now).1.tag = r.tag := by
  unfold Request.afterEnded
  cases r.job with
  | move m => rfl
  | sweep w =>
    dsimp only
    split
    · rfl
    · split
      · split <;> rfl
      · rfl

/-- The step of the front request: it completes, or goes on in its place. -/
theorem finishStep_eq {s : State} {r : Request} {rest : List Request} (hq : s.queue = r :: rest) :
    finishStep s = match (r.afterEnded s.now).2 with
      | some o => completeRequest (r.afterEnded s.now).1 o
          (s.modEngine fun e => { e with work := .none })
      | none => { s with
          queue := (r.afterEnded s.now).1 :: rest
          attention := if r.extends then { s.attention with sweepExtended := true }
            else s.attention } := by
  unfold finishStep
  rw [hq]
  dsimp only
  cases hjob : r.job with
  | move m =>
    rw [(afterEnded_of_move hjob).1]
  | sweep w =>
    dsimp only
    change (if w.cancelPending then _ else
      if w.count ≠ 0 ∧ (w.afterStep s.now).remaining = 0 then _ else _) = _
    cases hcancel : w.cancelPending with
    | true =>
      rw [(afterEnded_of_cancelPending hjob hcancel).1]
      rfl
    | false =>
      rw [if_neg Bool.false_ne_true]
      by_cases hlast : w.count ≠ 0 ∧ (w.afterStep s.now).remaining = 0
      · rw [if_pos hlast]
        by_cases hext : 0 < w.extension
        · obtain ⟨hstep, hextends⟩ :=
            afterEnded_of_extension hjob hcancel hlast.1 hlast.2 hext
          rw [if_pos hext, hstep, hextends]
          rfl
        · obtain ⟨hstep, -⟩ :=
            afterEnded_of_last hjob hcancel hlast.1 hlast.2 (Nat.eq_zero_of_not_pos hext)
          rw [if_neg hext, hstep]
          rfl
      · obtain ⟨hstep, hextends⟩ := afterEnded_of_steps_left hjob hcancel hlast
        rw [if_neg hlast, hstep, hextends]
        rfl

theorem finishStep_of_completes {s : State} {r r1 : Request} {rest : List Request}
    {outcome : OutcomeCode} (hq : s.queue = r :: rest) (hroom : LogHasRoom s)
    (hstep : r.afterEnded s.now = (r1, some outcome)) : finishStep s = { s with
      queue := withoutTag r.tag s.queue
      log := s.logWith (completionRecord s r1 outcome)
      engine := { s.engine with work := .none } } := by
  have htag : r1.tag = r.tag := by rw [← afterEnded_tag r s.now, hstep]
  rw [finishStep_eq hq, hstep]
  dsimp only
  rw [completeRequest_of_room (s := s.modEngine fun e => { e with work := .none }) hroom, htag]
  rfl

theorem finishStep_of_goes_on {s : State} {r r1 : Request} {rest : List Request}
    (hq : s.queue = r :: rest) (hstep : r.afterEnded s.now = (r1, none)) : finishStep s = { s with
      queue := r1 :: rest
      attention := if r.extends then { s.attention with sweepExtended := true }
        else s.attention } := by
  rw [finishStep_eq hq, hstep]

/-! ### After the step: SETTLING, the next head, IDLE (R155, R156) -/

/-- The part in SETTLING, before it is announced. -/
def settlingEntered (u : State) : State :=
  { u with
    queue := if u.engine.work = .request then modFront (fun r => r.at .settling) u.queue else u.queue
    engine := { u.engine with
      state := .settling, settle := some (later u.now u.cfg.ownSettle) }
    builder := { u.builder with
      refs := { u.builder.refs with settle := some (later u.now u.cfg.ownSettle) } } }

theorem enterSettling_eq (u : State) : enterSettling u = announce (settlingEntered u) := by
  unfold enterSettling settlingEntered
  cases u.engine.work <;> rfl

theorem checkStopWork_of_running {s : State} (h : s.part = .running) : checkStopWork s = s := by
  unfold checkStopWork
  rw [h]
  exact if_neg fun hc => nomatch hc.1

/-- A state is itself with its queue named. -/
theorem State.eq_with_queue {u : State} {q : List Request} (h : u.queue = q) :
    u = { u with queue := q } := by
  subst h
  rfl

/-- The part with the front entry of the queue taken as head and the grant given back (R136, R155). -/
def headTaken (u : State) (x : Request) (more : List Request) (l : Link) : State :=
  { u with
    link := l
    queue := { x with position := .waiting, waitStart := some (x.waitStart.getD u.now) } :: more
    engine := { u.engine with
      state := .waiting, work := .request, settle := none, grant := none } }

/-- The part with the engine IDLE and the grant given back, as STOPPING leaves it (R156). -/
def engineIdled (u : State) (l : Link) : State :=
  { u with link := l, engine := { u.engine with state := .idle, work := .none, grant := none } }

section After
variable {s u : State} {g : Grant}

theorem afterEnded_of_settling (hlink : u.link = s.link) (hpins : u.pins = s.pins)
    (hgrant : u.engine.grant = some g) (hpart : u.part = .running) (hsettle : 0 < u.cfg.ownSettle) :
    ∃ l, checkStopWork (afterEnded u) = { settlingEntered u with link := l } ∧
      Announced s { settlingEntered u with link := l } .settling g.cls 0 g.fromOffset g.target := by
  have hwork : checkStopWork (afterEnded u) = announce (settlingEntered u) := by
    unfold afterEnded
    rw [if_neg (by rw [hpart]; nofun), if_neg (by omega), enterSettling_eq]
    exact checkStopWork_of_running (s := announce (settlingEntered u)) hpart
  exact ⟨_, hwork, announce_announced (s := settlingEntered u) hlink hpins
    (content_grant (g := g) rfl nofun nofun hgrant)⟩

theorem afterEnded_of_empty (hlink : u.link = s.link) (hpins : u.pins = s.pins)
    (hpart : u.part = .running) (hsettle : u.cfg.ownSettle = 0) (hq : u.queue = []) :
    ∃ l, let idle := { u with
        link := l
        engine := { u.engine with state := .idle, work := .none, settle := none, grant := none } }
      checkStopWork (afterEnded u) = idle ∧ AnnouncedIdle s idle := by
  let idle : State := { u with
    engine := { u.engine with state := .idle, work := .none, settle := none, grant := none } }
  have hhead : takeHead (u.modEngine fun e => { e with settle := none, grant := none }) = idle :=
    takeHead_nil hq
  have hend : endSettling u = announce idle := by
    unfold endSettling
    rw [hhead]
    exact evaluate_nil (s := announce idle) hq
  have hwork : checkStopWork (afterEnded u) = announce idle := by
    unfold afterEnded
    rw [if_neg (by rw [hpart]; nofun), if_pos hsettle, hend]
    exact checkStopWork_of_running (s := announce idle) hpart
  exact ⟨(announce idle).link, hwork, announce_idle (s := idle) hlink hpins rfl⟩

/-- With S_o = 0 and a request queued the head is taken, IDLE announced, the head evaluated. -/
theorem afterEnded_of_next {x : Request} {more : List Request} (hlink : u.link = s.link)
    (hpins : u.pins = s.pins) (hpart : u.part = .running) (hsettle : u.cfg.ownSettle = 0)
    (hq : u.queue = x :: more) :
    ∃ l, checkStopWork (afterEnded u) = evaluate (headTaken u x more l) ∧
      AnnouncedIdle s (headTaken u x more l) := by
  let taken := headTaken u x more u.link
  have hhead : takeHead (u.modEngine fun e => { e with settle := none, grant := none }) = taken :=
    takeHead_cons hq
  have hwork : checkStopWork (afterEnded u) = evaluate (announce taken) := by
    unfold afterEnded
    rw [if_neg (by rw [hpart]; nofun), if_pos hsettle]
    unfold endSettling
    rw [hhead]
    exact checkStopWork_of_running ((keeps_evaluate (announce taken)).part.trans hpart)
  exact ⟨(announce taken).link, hwork, announce_idle (s := taken) hlink hpins rfl⟩

/-- In STOPPING the engine is IDLE and the final announcement is requested (R156, R192). -/
theorem afterEnded_of_stopping (hlink : u.link = s.link) (hpins : u.pins = s.pins)
    (hpart : u.part = .stopping) (hfinal : s.link.final = .none) (hlatch : u.holds.parkLatch = false) :
    ∃ l, checkStopWork (afterEnded u) = requestFinal (engineIdled u l) ∧
      AnnouncedIdle s (engineIdled u l) ∧ l.trail = s.link.trail := by
  let idle := engineIdled u u.link
  have hannounced : AnnouncedIdle s (announce idle) := announce_idle (s := idle) hlink hpins rfl
  obtain ⟨htrail, hnone⟩ := hannounced.link_keeps
  have hwork : checkStopWork (afterEnded u) = requestFinal (announce idle) := by
    unfold afterEnded
    rw [if_pos hpart]
    exact checkStopWork_of_done (s := announce idle) hpart (hnone.trans hfinal) rfl hlatch
  exact ⟨(announce idle).link, hwork, hannounced, htrail⟩

end After

/-! ### The command (R154) -/

/-- The answer is formed before the head is evaluated as after. -/
theorem answerOk_headEvaluated {u : State} {r : Request} {rest : List Request}
    (hstate : u.engine.state = .waiting) (hq : u.queue = r :: rest) :
    HeadEvaluated (answerOk u) (answerOk (evaluate u)) r rest := by
  have hanswer : answerOk (evaluate u) = evaluate (answerOk u) :=
    (evaluate_modPort (fun _ => ⟨.taken, [0]⟩) u).symm
  rw [hanswer]
  exact evaluate_headEvaluated hstate hq

theorem answerOk_finalRequested {u : State} (hidle : u.engine.state = .idle) :
    FinalRequested (answerOk u) (answerOk (requestFinal u)) := by
  have hanswer : answerOk (requestFinal u) = requestFinal (answerOk u) :=
    (requestFinal_modPort (fun _ => ⟨.taken, [0]⟩) u).symm
  rw [hanswer]
  exact requestFinal_finalRequested (congrArg phaseOf hidle)

/-- What the request for the final announcement keeps of a part with nothing queued and an engine at
rest. -/
theorem FinalRequested.keeps {s t : State} (h : FinalRequested s t) (hq : s.queue = [])
    (hstate : s.engine.state = .idle) (hwork : s.engine.work = .none)
    (hgrant : s.engine.grant = none) (hoverrun : s.engine.overrun = none) :
    t.port = s.port ∧ t.queue = [] ∧ t.log = s.log ∧ t.engine.state = .idle ∧
      t.engine.work = .none ∧ t.engine.grant = none ∧ t.engine.overrun = none ∧
      t.engine.offset = s.engine.offset ∧ t.builder.move = s.builder.move ∧
      t.engine.lapsedTag = s.engine.lapsedTag := by
  obtain ⟨hbusy, hfree, hother⟩ := h
  by_cases hready : s.link.trail.current = .ready
  · by_cases hb : s.link.stage = .send ∨ s.link.stage = .echoWait
    · rw [hbusy hready hb]
      exact ⟨rfl, hq, rfl, hstate, hwork, hgrant, hoverrun, rfl, rfl, rfl⟩
    · rw [hfree hready hb]
      exact ⟨rfl, hq, rfl, hstate, hwork, hgrant, hoverrun, rfl, rfl, rfl⟩
  · have hconfig := hother hready
    unfold ConfigEntered at hconfig
    rw [hconfig]
    exact ⟨rfl, rfl, rfl, rfl, rfl, rfl, rfl, rfl, rfl, rfl⟩

/-- A request that ends at a STOP completes at its move's ENDED (R125, R133). -/
theorem afterEnded_of_endsAtStop {r : Request} (h : r.endsAtStop = true) (s : State) :
    ∃ r1 outcome, r.afterEnded s.now = (r1, some outcome) ∧
      (∀ m, r.job = .move m → completionRecord s r .done = completionRecord s r1 outcome) ∧
      ∀ w, r.job = .sweep w →
        completionRecord s { r with job := .sweep (w.afterStep s.now) } .cancelled =
          completionRecord s r1 outcome := by
  unfold Request.endsAtStop at h
  cases hjob : r.job with
  | move m =>
    exact ⟨r, .done, (afterEnded_of_move hjob).1, fun _ _ => rfl, fun _ hc => nomatch hc⟩
  | sweep w =>
    rw [hjob] at h
    refine ⟨_, .cancelled, (afterEnded_of_cancelPending hjob h).1, fun _ hc => (nomatch hc),
      fun v hc => ?_⟩
    cases hc
    rfl

theorem execEnded_of_named {tag achieved : W16} {g : Grant} {s : State}
    (hport : s.port.phase = .noTransaction) (hpart : s.part ≠ .config)
    (hstate : s.engine.state = .moving) (hgrant : s.engine.grant = some g) (htag : g.tag = tag) :
    exec (.ended tag achieved) s =
      .next (answerOk (endMove (max (-300) (min 300 achieved.toInt)) g s)) := by
  change execEnded tag achieved s = _
  unfold execEnded
  rw [portCommand_taken _ hport, hstate, hgrant]
  cases hp : s.part with
  | config => exact absurd hp hpart
  | running => exact congrArg _ (if_pos htag.symm)
  | stopping => exact congrArg _ (if_pos htag.symm)

theorem endMove_of_request {s : State} (a : Int) (g : Grant) (hwork : s.engine.work = .request)
    (hlatch : (finishStep (reachOffset a g s)).holds.parkLatch = false) :
    endMove a g s = checkStopWork (afterEnded (finishStep (reachOffset a g s))) := by
  unfold endMove
  rw [hwork]
  dsimp only
  rw [hlatch, if_neg Bool.false_ne_true]

theorem endMove_of_latched {s : State} (a : Int) (g : Grant) (hwork : s.engine.work = .request)
    (hlatch : (finishStep (reachOffset a g s)).holds.parkLatch = true) :
    endMove a g s = checkStopWork (parkAtEnded (finishStep (reachOffset a g s))) := by
  unfold endMove
  rw [hwork]
  dsimp only
  rw [hlatch, if_pos rfl]

theorem endMove_of_park {s : State} (a : Int) (g : Grant) (hwork : s.engine.work = .park) :
    endMove a g s = checkStopWork (afterEnded (finishPark (reachOffset a g s))) := by
  unfold endMove
  rw [hwork]

end Sys2Proof.Machine

section
open Sys2Proof Sys2Proof.Machine

/-- Settles O27: the arrival with its report, the completion, then settling, IDLE or the next head. -/
theorem endedCompletesMove : Obligations.EndedCompletesMove := by
  unfold Obligations.EndedCompletesMove
  intro tag achieved s hport
  refine ⟨fun hconfig => ?_, fun hpart hnot => ?_,
    fun g r rest m hpart hstate hwork hgrant htag hq hjob hlatch hroom => ?_⟩
  · change execEnded tag achieved s = _
    exact portCommand_wrongState hport (by rw [hconfig])
  · change execEnded tag achieved s = _
    unfold execEnded
    rw [portCommand_taken _ hport]
    cases hp : s.part with
    | config => exact absurd hp hpart
    | _ =>
      dsimp only
      split
      · next g hstate hgrant =>
        rw [if_neg fun htag => hnot ⟨hstate, by rw [hgrant, htag]; rfl⟩]
        rfl
      · rfl
  · have hout : s.part ≠ .config := by rw [hpart]; nofun
    have hexec := execEnded_of_named (achieved := achieved) hport hout hstate hgrant htag
    dsimp only
    generalize max (-300) (min 300 achieved.toInt) = a at hexec ⊢
    obtain ⟨f, h, n, hreach, hrecorder, hquiet, hkept⟩ := reachOffset_reports a g hout hstate
    let u : State := { reached a s with
      recorder := f, holds := h, attention := n
      queue := withoutTag r.tag s.queue
      log := s.logWith { completionRecord s r .done with finalOffset := a }
      engine := { (reached a s).engine with work := .none } }
    have hfinish : finishStep (reachOffset a g s) = u := by
      rw [hreach]
      exact finishStep_of_completes
        (s := { reached a s with recorder := f, holds := h, attention := n }) hq hroom
        (afterEnded_of_move hjob).1
    rw [endMove_of_request a g hwork (by rw [hfinish]; exact hkept.trans hlatch), hfinish] at hexec
    rw [htag] at hrecorder
    rcases Nat.eq_zero_or_pos s.cfg.ownSettle with hzero | hpos
    · cases hrest : rest with
      | nil =>
        have hempty : withoutTag r.tag s.queue = [] := by rw [hq, hrest, withoutTag_single]
        obtain ⟨l, hwork, hannounced⟩ :=
          afterEnded_of_empty (s := s) (u := { u with queue := [] }) rfl rfl hpart hzero rfl
        rw [State.eq_with_queue (u := u) hempty, hwork] at hexec
        exact ⟨_, hexec, fun _ => ⟨hrecorder, hquiet⟩, fun hc => absurd hzero (by omega),
          fun _ _ => ⟨rfl, hannounced⟩, fun x more _ hc => nomatch hc⟩
      | cons x more =>
        refine ⟨_, hexec, ?_, fun hc => absurd hzero (by omega), fun _ hc => (nomatch hc),
          fun y more' _ hcons hdistinct hgood => ?_⟩
        · rintro (hc | hc)
          · exact absurd hzero (by omega)
          · cases hc
        · obtain ⟨rfl, rfl⟩ := List.cons.inj hcons
          obtain ⟨rfl, rfl⟩ := hquiet (.inl hgood)
          obtain rfl : f = s.recorder := hrecorder.trans (if_neg (not_lt.2 hgood))
          have hnext : withoutTag r.tag s.queue = x :: more := by
            unfold withoutTag
            rw [hq, hrest, List.filter_cons_of_neg (by simp), List.filter_eq_self]
            exact fun z hz => decide_eq_true (hdistinct z hz)
          obtain ⟨l, hwork, hannounced⟩ :=
            afterEnded_of_next (s := s) (u := { u with queue := x :: more }) rfl rfl hpart hzero rfl
          refine ⟨l, hannounced, ?_⟩
          rw [State.eq_with_queue (u := u) hnext, hwork]
          exact answerOk_headEvaluated (u := headTaken { u with queue := x :: more } x more l) rfl rfl
    · obtain ⟨l, hwork, hannounced⟩ :=
        afterEnded_of_settling (s := s) (u := u) (g := g) rfl rfl hgrant hpart hpos
      rw [hwork] at hexec
      exact ⟨_, hexec, fun _ => ⟨hrecorder, hquiet⟩, fun _ => ⟨rfl, hannounced⟩,
        fun hc => absurd hc (by omega), fun x more hc => absurd hc (by omega)⟩

/-- Settles O28: the front request completes, the engine is IDLE, and the final announcement is
requested, with a fault of the arrival or without one. -/
theorem endedFinishesStop : Obligations.EndedFinishesStop := by
  unfold Obligations.EndedFinishesStop
  intro tag achieved g r s hport hpart hstate hwork hgrant htag hq hends hlatch hfinal hroom
  have hout : s.part ≠ .config := by rw [hpart]; nofun
  have hexec := execEnded_of_named (achieved := achieved) hport hout hstate hgrant htag
  obtain ⟨r1, outcome, hstep, hmove, hsweep⟩ := afterEnded_of_endsAtStop hends s
  intro a record
  have hrecord : record = completionRecord s r1 outcome := by
    dsimp only [record]
    split
    · next m hjob => exact hmove m hjob
    · next w hjob => exact hsweep w hjob
  clear_value record
  subst hrecord
  dsimp only
  change exec _ s = .next (answerOk (endMove a g s)) at hexec
  clear_value a
  obtain ⟨f, h, n, hreach, hrecorder, hquiet, hkept⟩ := reachOffset_reports a g hout hstate
  let u : State := { reached a s with
    recorder := f, holds := h, attention := n
    queue := []
    log := s.logWith { completionRecord s r1 outcome with finalOffset := a }
    engine := { (reached a s).engine with work := .none } }
  have hfinish : finishStep (reachOffset a g s) = u := by
    have hempty : withoutTag r.tag s.queue = [] := by rw [hq, withoutTag_single]
    rw [hreach]
    refine (finishStep_of_completes
      (s := { reached a s with recorder := f, holds := h, attention := n }) hq hroom hstep).trans ?_
    change ({ u with queue := withoutTag r.tag s.queue } : State) = u
    rw [hempty]
  rw [endMove_of_request a g hwork (by rw [hfinish]; exact hkept.trans hlatch), hfinish] at hexec
  obtain ⟨l, hdone, hannounced, htrail⟩ :=
    afterEnded_of_stopping (s := s) (u := u) rfl rfl hpart hfinal (hkept.trans hlatch)
  rw [hdone] at hexec
  have hrequested := answerOk_finalRequested (u := engineIdled u l) rfl
  have hcurrent : l.trail.current = s.link.trail.current := by rw [htrail]
  obtain ⟨hready, hother⟩ := hrequested.part_final
  obtain ⟨hkport, hkqueue, hklog, hkstate, hkwork, hkgrant, hkoverrun, hkoffset, hkmove, hklapsed⟩ :=
    hrequested.keeps rfl rfl rfl rfl rfl
  refine ⟨_, l, hexec, hkport, hkqueue, hklog, hkstate, hkwork, hkgrant, hkoverrun, hkoffset, hkmove,
    hklapsed, fun hc => ?_, fun hc => hother fun hl => hc (hcurrent.symm.trans hl), fun hgood => ?_⟩
  · obtain ⟨hstop, hfin⟩ := hready (hcurrent.trans hc)
    exact ⟨hstop.trans hpart, hfin⟩
  · obtain ⟨rfl, rfl⟩ := hquiet (.inl hgood)
    obtain rfl : f = s.recorder := hrecorder.trans (if_neg (not_lt.2 hgood))
    rw [hklog]
    exact ⟨hannounced, hrequested⟩

end
end

section
/-! SUPPORT. ENDED of a sweep's step, and ENDED with the park latched or under way. -/

namespace Sys2Proof.Machine

/-! ### The step of a sweep, within the tolerance -/

section Arrives
variable {s : State} {a : Int} {g : Grant} {r r1 : Request} {rest : List Request}

/-- The part once a completed front request has left the queue. -/
def stepCompleted (a : Int) (s : State) (r r1 : Request) (outcome : OutcomeCode) : State :=
  { reached a s with
    queue := withoutTag r.tag s.queue
    log := s.logWith { completionRecord s r1 outcome with finalOffset := a }
    engine := { (reached a s).engine with work := .none } }

/-- The part once a front request goes on. -/
def stepGoesOn (a : Int) (s : State) (r r1 : Request) (rest : List Request) : State :=
  { reached a s with
    queue := r1 :: rest
    attention := if r.extends then { s.attention with sweepExtended := true } else s.attention }

theorem finishStep_reached_completes {outcome : OutcomeCode}
    (hgood : (a - g.target).natAbs ≤ s.cfg.endedTolerance) (hq : s.queue = r :: rest)
    (hroom : LogHasRoom s) (hstep : r.afterEnded s.now = (r1, some outcome)) :
    finishStep (reachOffset a g s) = stepCompleted a s r r1 outcome := by
  rw [reachOffset_within hgood]
  exact finishStep_of_completes (s := reached a s) hq hroom hstep

theorem finishStep_reached_goes_on
    (hgood : (a - g.target).natAbs ≤ s.cfg.endedTolerance) (hq : s.queue = r :: rest)
    (hstep : r.afterEnded s.now = (r1, none)) :
    finishStep (reachOffset a g s) = stepGoesOn a s r r1 rest := by
  rw [reachOffset_within hgood]
  exact finishStep_of_goes_on (s := reached a s) hq hstep

end Arrives

theorem settlingEntered_of_request {u : State} (h : u.engine.work = .request) :
    settlingEntered u = { u with
      queue := modFront (fun r => r.at .settling) u.queue
      engine := { u.engine with
        state := .settling, work := .request, settle := some (later u.now u.cfg.ownSettle) }
      builder := { u.builder with
        refs := { u.builder.refs with settle := some (later u.now u.cfg.ownSettle) } } } := by
  unfold settlingEntered
  rw [if_pos h, ← h]

/-! ### The park at an ENDED (R169 to R173) -/

/-- A source reported clear in MOVING: no evaluation point follows there. -/
theorem reportClear_of_moving {s : State} {src : HoldSource} (hpart : s.part ≠ .config)
    (hset : s.holds.get src = true) (hstate : s.engine.state = .moving) : reportClear src s = { s with
      holds := s.holds.put src false, attention := { s.attention with holdLatched := true } } := by
  unfold reportClear
  rw [if_neg (not_or.2 ⟨hpart, fun hc => Bool.false_ne_true (hc.symm.trans hset)⟩)]
  dsimp only
  split
  · exact heldEffect_of_coherent (fun hc => nomatch hstate.symm.trans hc)
      fun hc => nomatch hstate.symm.trans hc.1
  · exact evalPoint_of_other _ (fun hc => nomatch hstate.symm.trans hc)
      fun hc => nomatch hstate.symm.trans hc

theorem clearParkLatch_of_moving {s : State} (hpart : s.part ≠ .config) (hset : s.holds.park = true)
    (hstate : s.engine.state = .moving) : clearParkLatch s = { s with
      holds := { s.holds with
        park := false, parkLatch := false, parkLatchedAt := none, parkGrantedAt := none }
      attention := { s.attention with holdLatched := true } } :=
  reportClear_of_moving (src := .park) (s := s.modHolds fun h =>
    { h with parkLatch := false, parkLatchedAt := none, parkGrantedAt := none }) hpart hset hstate

/-- The part once the park has completed PARKED, with its wait, and is unlatched (R170, R171). -/
def parkedOff (wait : Nat) (u : State) : State :=
  { u with
    log := u.logWith ⟨0, .park, .parked, u.engine.offset, min wait 65535, 0, 0⟩
    holds := { u.holds with
      park := false, parkLatch := false, parkLatchedAt := none, parkGrantedAt := none }
    attention := { u.attention with holdLatched := true } }

theorem finishPark_of_moving {u : State} {latched granted : Nat} (hpart : u.part ≠ .config)
    (hset : u.holds.park = true) (hstate : u.engine.state = .moving) (hroom : LogHasRoom u)
    (hlatched : u.holds.parkLatchedAt = some latched)
    (hgranted : u.holds.parkGrantedAt = some granted) :
    finishPark u = parkedOff (granted - latched) { u with
      engine := { u.engine with work := .none } } := by
  unfold finishPark parkWait
  rw [offer_of_room hroom, hgranted, hlatched]
  exact clearParkLatch_of_moving (s := { u with
    log := u.logWith (parkedRecord (granted - latched) u)
    engine := { u.engine with work := .none } }) hpart hset hstate

theorem parkAtEnded_of_reached {u : State} {latched : Nat} (hpart : u.part ≠ .config)
    (htarget : parkTarget u.cfg = u.engine.offset) (hset : u.holds.park = true)
    (hstate : u.engine.state = .moving) (hroom : LogHasRoom u)
    (hlatched : u.holds.parkLatchedAt = some latched) :
    parkAtEnded u = afterEnded (parkedOff (u.now - latched) u) := by
  unfold parkAtEnded parkWait
  rw [if_pos htarget, offer_of_room hroom, hlatched]
  exact congrArg afterEnded (clearParkLatch_of_moving (s := { u with
    log := u.logWith (parkedRecord (u.now - latched) u) }) hpart hset hstate)

theorem parkGranted_of_request {u : State} (h : u.engine.work = .request) : parkGranted u = { u with
    holds := { u.holds with parkGrantedAt := some u.now }
    builder := { u.builder with
      move := u.builder.move + 1, refs := { u.builder.refs with startTimeout := none } }
    queue := modFront Request.displacedByPark u.queue
    engine := { u.engine with
      state := .granted, work := .park, grant := some (parkGrant u)
      echo := false, expired := false, settle := none } } := by
  unfold parkGranted
  rw [if_pos h]

/-- With the park's target off, the ENDED gives the engine to the park. -/
theorem parkAtEnded_of_off {s u : State} (hlink : u.link = s.link) (hpins : u.pins = s.pins)
    (htarget : parkTarget u.cfg ≠ u.engine.offset) :
    ∃ l, checkStopWork (parkAtEnded u) = { parkGranted u with link := l } ∧
      Announced s { parkGranted u with link := l } .committed .priority 0 u.engine.offset
        (parkTarget u.cfg) := by
  refine ⟨(enterGrantedPark u).link, ?_, ?_⟩
  · unfold parkAtEnded
    rw [if_neg htarget, checkStopWork_of_not_idle (enterGrantedPark_not_idle u)]
    exact enterGrantedPark_link u
  · rw [enterGrantedPark_eq]
    exact announce_announced (s := parkGranted u) hlink hpins (content_parkGranted u)

end Sys2Proof.Machine

section
open Sys2Proof Sys2Proof.Machine

/-- Settles O29, by the outcome of the step: the sweep completes, is extended, or has steps left. -/
theorem endedStepsSweep : Obligations.EndedStepsSweep := by
  unfold Obligations.EndedStepsSweep
  intro tag achieved g r rest w s hport hpart hstate hwork hgrant htag hq hjob hlatch hsettle hroom a
    hgood w1 ends goesOn settles
  have hout : s.part ≠ .config := by rw [hpart]; nofun
  have hexec := execEnded_of_named (achieved := achieved) hport hout hstate hgrant htag
  change exec _ s = .next (answerOk (endMove a g s)) at hexec
  have hcompletes : ∀ outcome, r.afterEnded s.now = ({ r with job := .sweep w1 }, some outcome) →
      settles .none (ends outcome) := fun outcome hstep => by
    have hfinish := finishStep_reached_completes hgood hq hroom hstep
    rw [endMove_of_request a g hwork (by rw [hfinish]; exact hlatch), hfinish] at hexec
    obtain ⟨l, hdone, hannounced⟩ := afterEnded_of_settling (s := s)
      (u := stepCompleted a s r { r with job := .sweep w1 } outcome) rfl rfl hgrant hpart hsettle
    rw [hdone] at hexec
    exact ⟨_, hexec, rfl, hannounced⟩
  have hgoes : ∀ v, r.afterEnded s.now = ({ r with job := .sweep v, yields := 0 }, none) →
      settles .request { goesOn v with
        attention := if r.extends then { s.attention with sweepExtended := true }
          else s.attention } := fun v hstep => by
    have hfinish := finishStep_reached_goes_on hgood hq hstep
    rw [endMove_of_request a g hwork (by rw [hfinish]; exact hlatch), hfinish] at hexec
    obtain ⟨l, hdone, hannounced⟩ := afterEnded_of_settling (s := s)
      (u := stepGoesOn a s r { r with job := .sweep v, yields := 0 } rest) rfl rfl hgrant hpart
      hsettle
    rw [hdone] at hexec
    refine ⟨_, hexec, ?_, hannounced⟩
    rw [settlingEntered_of_request (u := stepGoesOn a s r { r with job := .sweep v, yields := 0 } rest)
      hwork]
    rfl
  refine ⟨fun hcancel => hcompletes _ (afterEnded_of_cancelPending hjob hcancel).1,
    fun hcancel hcount hlast => ⟨fun hnone => ?_, fun hext => ?_⟩, fun hcancel hleft => ?_⟩
  · exact hcompletes _ (afterEnded_of_last hjob hcancel hcount hlast hnone).1
  · obtain ⟨hstep, hextends⟩ := afterEnded_of_extension hjob hcancel hcount hlast hext
    have h := hgoes _ hstep
    rw [hextends] at h
    exact h
  · obtain ⟨hstep, hextends⟩ := afterEnded_of_steps_left (now := s.now) hjob hcancel fun hc =>
      hleft.elim (fun h => hc.1 h) fun h => h hc.2
    have h := hgoes _ hstep
    rw [hextends] at h
    exact h

/-- Settles O30: the park takes the engine at the move's end, or completes PARKED there and the ended
move goes on, or ends itself. -/
theorem endedServesPark : Obligations.EndedServesPark := by
  unfold Obligations.EndedServesPark
  intro tag achieved g s hport hout hstate hgrant htag hroom a target ended settled settling unlatched
    hgood
  have hexec := execEnded_of_named (achieved := achieved) hport hout hstate hgrant htag
  change exec _ s = .next (answerOk (endMove a g s)) at hexec
  refine ⟨fun r rest r1 o hwork hq hlatch hstep => ?_,
    fun latched granted hwork hlatched hgranted hset => ?_⟩
  · cases o with
    | some outcome =>
      have hfinish := finishStep_reached_completes hgood hq hroom hstep
      rw [endMove_of_latched a g hwork (by rw [hfinish]; exact hlatch), hfinish] at hexec
      have hparked : ∀ latched, target = a → s.holds.park = true →
          s.holds.parkLatchedAt = some latched → LogHasRoom (stepCompleted a s r r1 outcome) →
          parkAtEnded (stepCompleted a s r r1 outcome) =
            afterEnded (parkedOff (s.now - latched) (stepCompleted a s r r1 outcome)) :=
        fun latched htarget hset hlatched hmore =>
          parkAtEnded_of_reached hout htarget hset hstate hmore hlatched
      refine ⟨fun hoff => ?_, fun latched htarget hpart hsettle hset hlatched hmore => ?_,
        fun latched o htarget ho hempty hset hlatched hmore => ?_⟩
      · obtain ⟨l, hpark, hannounced⟩ := parkAtEnded_of_off (s := s)
          (u := stepCompleted a s r r1 outcome) rfl rfl hoff
        rw [hpark] at hexec
        exact ⟨_, hexec, rfl, hannounced⟩
      · obtain ⟨l, hdone, hannounced⟩ := afterEnded_of_settling (s := s)
          (u := parkedOff (s.now - latched) (stepCompleted a s r r1 outcome)) rfl rfl hgrant hpart
          hsettle
        rw [hparked latched htarget hset hlatched hmore, hdone] at hexec
        exact ⟨_, hexec, rfl, hannounced⟩
      · cases ho
        rw [hparked latched htarget hset hlatched hmore] at hexec
        refine ⟨_, hexec, fun hpart hsettle => ?_, fun hpart hfinal => ?_⟩
        · obtain ⟨l, hdone, hannounced⟩ := afterEnded_of_empty (s := s)
            (u := parkedOff (s.now - latched) (stepCompleted a s r r1 outcome)) rfl rfl hpart hsettle
            hempty
          rw [hdone]
          exact ⟨rfl, hannounced⟩
        · obtain ⟨l, hdone, hannounced, -⟩ := afterEnded_of_stopping (s := s)
            (u := parkedOff (s.now - latched) (stepCompleted a s r r1 outcome)) rfl rfl hpart hfinal
            rfl
          rw [hdone]
          exact ⟨l, hannounced, answerOk_finalRequested (u := engineIdled
            (parkedOff (s.now - latched) (stepCompleted a s r r1 outcome)) l) rfl⟩
    | none =>
      have hfinish := finishStep_reached_goes_on hgood hq hstep
      rw [endMove_of_latched a g hwork (by rw [hfinish]; exact hlatch), hfinish] at hexec
      refine ⟨fun hoff => ?_, fun latched htarget hpart hsettle hset hlatched hmore => ?_,
        fun latched outcome _ ho => (nomatch ho)⟩
      · obtain ⟨l, hpark, hannounced⟩ := parkAtEnded_of_off (s := s)
          (u := stepGoesOn a s r r1 rest) rfl rfl hoff
        rw [hpark] at hexec
        refine ⟨_, hexec, ?_, hannounced⟩
        rw [parkGranted_of_request (u := stepGoesOn a s r r1 rest) hwork]
        rfl
      · have hparked : parkAtEnded (stepGoesOn a s r r1 rest) =
            afterEnded (parkedOff (s.now - latched) (stepGoesOn a s r r1 rest)) :=
          parkAtEnded_of_reached hout htarget hset hstate hmore hlatched
        obtain ⟨l, hdone, hannounced⟩ := afterEnded_of_settling (s := s)
          (u := parkedOff (s.now - latched) (stepGoesOn a s r r1 rest)) rfl rfl hgrant hpart hsettle
        rw [hparked, hdone] at hexec
        refine ⟨_, hexec, ?_, hannounced⟩
        rw [settlingEntered_of_request
          (u := parkedOff (s.now - latched) (stepGoesOn a s r r1 rest)) hwork]
        rfl
  · let gone : State := { reached a s with engine := { (reached a s).engine with work := .none } }
    have hparked : finishPark (reachOffset a g s) = parkedOff (granted - latched) gone := by
      rw [reachOffset_within hgood]
      exact finishPark_of_moving (u := reached a s) hout hset hstate hroom hlatched hgranted
    rw [endMove_of_park a g hwork, hparked] at hexec
    refine ⟨_, hexec, fun hpart hsettle => ?_, fun hpart hsettle hempty => ?_,
      fun hpart hfinal => ?_⟩
    · obtain ⟨l, hdone, hannounced⟩ := afterEnded_of_settling (s := s)
        (u := parkedOff (granted - latched) gone) rfl rfl hgrant hpart hsettle
      rw [hdone]
      exact ⟨rfl, hannounced⟩
    · obtain ⟨l, hdone, hannounced⟩ := afterEnded_of_empty (s := s)
        (u := parkedOff (granted - latched) gone) rfl rfl hpart hsettle hempty
      rw [hdone]
      exact ⟨rfl, hannounced⟩
    · obtain ⟨l, hdone, hannounced, -⟩ := afterEnded_of_stopping (s := s)
        (u := parkedOff (granted - latched) gone) rfl rfl hpart hfinal rfl
      rw [hdone]
      exact ⟨l, hannounced, answerOk_finalRequested
        (u := engineIdled (parkedOff (granted - latched) gone) l) rfl⟩

end
end

section
/-! SUPPORT. The status record and the taking of outcomes. -/

namespace Sys2Proof.Machine

/-! ### The status record (R195) -/

theorem exists_of_length_three {l : List Byte} (h : l.length = 3) : ∃ a b c, l = [a, b, c] :=
  List.length_eq_three.1 h

theorem exists_of_length_twelve {l : List Byte} (h : l.length = 12) :
    ∃ a b c d e f g i j k m n, l = [a, b, c, d, e, f, g, i, j, k, m, n] :=
  match l, h with
  | [a, b, c, d, e, f, g, i, j, k, m, n], _ => ⟨a, b, c, d, e, f, g, i, j, k, m, n, rfl⟩

/-- The causes as STATUS reports them, with the two latched marks of a sweep (R185). -/
theorem causeBits_marks (s : State) :
    causeBits s + (if s.attention.sweepExtended then 64 else 0) +
      (if s.attention.sweepUnderrun then 128 else 0) =
    (if s.cfg.outcomeThreshold ≤ s.log.records.length then 1 else 0) +
      (if s.cfg.roomThreshold ≤ 8 - s.queue.length then 2 else 0) +
      (if s.engine.state = .granted then 4 else 0) +
      (if s.recorder.status ≠ 0 then 8 else 0) +
      (if s.attention.sweepExtended ∨ s.attention.sweepUnderrun then 16 else 0) +
      (if s.attention.holdLatched then 32 else 0) +
      (if s.attention.sweepExtended then 64 else 0) +
      (if s.attention.sweepUnderrun then 128 else 0) := by
  have hfirst : ∀ b : Bool, b.toNat = if b then 1 else 0 := fun b => by cases b <;> rfl
  have hbit : ∀ (k : Nat) (b : Bool), k * b.toNat = if b then k else 0 := fun k b => by
    cases b
    · rfl
    · exact Nat.mul_one k
  unfold causeBits causeOutcomes causeRoom causeGrant causeFault causeSweep causeHold
  rw [hfirst, hbit, hbit, hbit, hbit, hbit]
  simp only [decide_eq_true_eq, Bool.or_eq_true]

/-- What next-opportunity for the head is formed from (R105, R106, R108). -/
theorem headOpportunity_nil {s : State} (hq : s.queue = []) : headOpportunity s = 32 := by
  unfold headOpportunity
  rw [hq]

theorem headOpportunity_cons {s : State} {r : Request} {rest : List Request}
    (hq : s.queue = r :: rest) : headOpportunity s =
      nextOpportunity (runLength s.cfg s.engine.offset (requestTarget s.cfg s.engine.offset r))
        s.quietMap.bins := by
  unfold headOpportunity
  rw [hq]

end Sys2Proof.Machine

section
open Sys2Proof Sys2Proof.Machine

/-- Settles O41: the fields of the record one by one, then what they report of the map. -/
theorem statusReportsAndClears : Obligations.StatusReportsAndClears := by
  unfold Obligations.StatusReportsAndClears
  intro s hport
  obtain ⟨_, _, _, hhead⟩ :=
    exists_of_length_three (length_optTagBytes (s.queue.head?.map Request.tag))
  obtain ⟨_, _, _, hlapsed⟩ := exists_of_length_three (length_optTagBytes s.engine.lapsedTag)
  obtain ⟨_, _, _, _, _, _, _, _, _, _, _, _, hgrant⟩ :=
    exists_of_length_twelve (length_optGrantBytes s.engine.grant)
  obtain ⟨_, _, _, _, _, _, _, _, _, _, _, _, hfault⟩ :=
    exists_of_length_twelve (length_optFirstFaultBytes s.recorder.first)
  refine ⟨statusBytes s, portCommand_taken _ hport, length_statusBytes s, ?_⟩
  unfold statusBytes
  rw [hhead, hlapsed, hgrant, hfault]
  simp only [byteOf, flagByte, signedBytes, timeBytes, beBytes, List.cons_append, List.nil_append]
  refine ⟨rfl, rfl, rfl, rfl, congrArg some (BitVec.ofNat_toNat _ _), rfl, rfl, rfl, rfl, rfl, rfl,
    ?_, rfl, rfl, congrArg some (congrArg (BitVec.ofNat 8) (causeBits_marks s)), ?_, rfl,
    activeCount_eq _, fun hlen => ⟨firstClear_spec hlen, runEnd_spec hlen, headOpportunity_nil,
      fun r rest hq => ?_⟩⟩
  · cases s.log.lost <;> rfl
  · cases s.wind.condition <;> rfl
  · rw [headOpportunity_cons hq]
    exact nextOpportunity_spec hlen _

end
end

section
/-! SUPPORT. The taking of outcomes: the fall of the log count and the deferred completions. -/

namespace Sys2Proof.Machine

/-! ### What a fall respects (R179) -/

theorem progress_reportClear_guard (s : State) : Progress s (reportClear .guard s) := by
  have hcleared : Progress s (latchHold (s.modHolds fun h => h.put .guard false)) :=
    ⟨fun x h => ⟨x, h, rfl⟩, List.prefix_refl _, fun _ h => h,
      fun o h1 _ => Holds.get_put_of_ne _ _ h1, rfl, fun _ => rfl⟩
  unfold reportClear
  split
  · exact .refl s
  · dsimp only
    split
    · exact hcleared.trans (progress_heldEffect _)
    · exact hcleared.trans (progress_evalPoint false _)

theorem progress_reportGuard (s : State) : Progress s (reportGuard s) := by
  unfold reportGuard
  split
  · split
    · exact progress_reportSet (.inl rfl) s
    · exact progress_reportClear_guard s
  · exact .refl s

theorem progress_completeDeferred (n : Nat) (s : State) : Progress s (completeDeferred n s) := by
  induction n generalizing s with
  | zero => exact .refl s
  | succ n ih =>
    unfold completeDeferred
    split
    · exact .refl s
    · split
      · exact .refl s
      · next r _ =>
        have hdone := progress_completeRequest r (deferredOutcome r) s
        dsimp only
        split
        · exact (hdone.trans (progress_takeNext _)).trans (ih _)
        · exact hdone.trans (ih _)

/-- The fall once the deferred completions are made: GUARD reported, then the evaluation point. -/
def fallReported (s : State) : State :=
  if (reportGuard s).log.records.length ≤ 13 then evalPoint false (reportGuard s) else reportGuard s

theorem progress_fallReported (s : State) : Progress s (fallReported s) := by
  unfold fallReported
  split
  · exact (progress_reportGuard s).trans (progress_evalPoint false _)
  · exact progress_reportGuard s

theorem afterFall_of_hold {s : State} (h : s.cfg.fullPolicy = .hold) :
    afterFall s = fallReported (completeDeferred s.queue.length s) := by
  unfold afterFall fallReported
  rw [h]

theorem afterFall_of_drop {s : State} (h : s.cfg.fullPolicy = .drop) :
    afterFall s = if s.log.records.length ≤ 13 then evalPoint false s else s := by
  unfold afterFall
  rw [h]

theorem progress_afterFall (s : State) : Progress s (afterFall s) := by
  cases h : s.cfg.fullPolicy with
  | hold =>
    rw [afterFall_of_hold h]
    exact (progress_completeDeferred _ s).trans (progress_fallReported _)
  | drop =>
    rw [afterFall_of_drop h]
    split
    · exact progress_evalPoint false s
    · exact .refl s

/-- Out of WAITING and INTENT, with GUARD clear, its count not reached and nothing deferred, a fall
changes nothing. -/
theorem afterFall_of_quiet {s : State} (hw : s.engine.state ≠ .waiting)
    (hi : s.engine.state ≠ .intent) (h : s.cfg.fullPolicy = .drop ∨
      (s.holds.guard = false ∧ s.log.records.length < 15 ∧ ∀ r ∈ s.queue, r.deferred = false)) :
    afterFall s = s := by
  cases hp : s.cfg.fullPolicy with
  | drop =>
    rw [afterFall_of_drop hp, evalPoint_of_other false hw hi, ite_self]
  | hold =>
    obtain ⟨hguard, hlen, hnone⟩ := h.resolve_left (by rw [hp]; nofun)
    have hreport : reportGuard s = s := by
      rw [reportGuard_eq hp, if_neg (by omega)]
      exact reportClear_of_clear hguard
    rw [afterFall_of_hold hp, completeDeferred_of_none _ (.inr hnone)]
    unfold fallReported
    rw [hreport, evalPoint_of_other false hw hi, ite_self]

/-! ### The deferred completions (step 1 of R179) -/

theorem completeDeferred_succ {n : Nat} {s : State} {r : Request}
    (hlen : s.log.records.length ≤ 13) (hfind : firstDeferred s.queue = some r) :
    completeDeferred (n + 1) s =
      let done := completeRequest r (deferredOutcome r) s
      completeDeferred n (if r.position = .waiting then takeNext done else done) := by
  conv_lhs => unfold completeDeferred
  rw [if_neg (not_lt.2 hlen), hfind]

theorem deferredOutcome_eq (r : Request) :
    deferredOutcome r = if r.isSweep then .unconfirmed else .expired := by
  unfold deferredOutcome Request.isSweep
  cases r.job <;> rfl

theorem exists_length_succ {α : Type} {x : α} {q : List α} (h : x ∈ q) :
    ∃ n, q.length = n + 1 :=
  Nat.exists_eq_add_one.2 (List.length_pos_of_mem h)

/-- The first deferred completion is made, and what follows respects it. -/
theorem afterFall_of_deferred {s : State} {r : Request} (hhold : s.cfg.fullPolicy = .hold)
    (hroom : LogHasRoom s) (hfind : s.queue.find? Request.deferred = some r) :
    s.log.records ++ [completionRecord s r (if r.isSweep then .unconfirmed else .expired)] <+:
        (afterFall s).log.records ∧
      ∀ x ∈ (afterFall s).queue, x.tag ≠ r.tag := by
  obtain ⟨n, hlen⟩ := exists_length_succ (List.mem_of_find?_eq_some hfind)
  have hfew : s.log.records.length ≤ 13 := Nat.lt_succ_iff.1 (hroom.2.2 hhold)
  have hdone := completeRequest_of_room hroom r (deferredOutcome r)
  have hprog : Progress (completeRequest r (deferredOutcome r) s) (afterFall s) := by
    rw [afterFall_of_hold hhold, hlen, completeDeferred_succ hfew hfind]
    refine Progress.trans ?_ (progress_fallReported _)
    refine Progress.trans ?_ (progress_completeDeferred n _)
    split
    · exact progress_takeNext _
    · exact .refl _
  rw [hdone] at hprog
  rw [← deferredOutcome_eq]
  refine ⟨hprog.log, fun x hx htag => ?_⟩
  obtain ⟨y, hy, hyx⟩ := hprog.tags x hx
  exact absurd (hyx.trans htag) (of_decide_eq_true (List.mem_filter.1 hy).2)

/-- One deferred completion, of a request in QUEUED, and then the fall is served. -/
theorem afterFall_of_one_deferred {s : State} {r : Request} (hhold : s.cfg.fullPolicy = .hold)
    (hpart : s.part ≠ .config) (hroom : LogHasRoom s) (hr : r ∈ s.queue) (hdef : r.deferred = true)
    (hpos : r.position = .queued) (hothers : ∀ x ∈ s.queue, x.tag ≠ r.tag → x.deferred = false)
    (hunique : ∀ x ∈ s.queue, x.tag = r.tag → x = r) :
    FallServed { s with
      queue := withoutTag r.tag s.queue
      log := s.logWith (completionRecord s r (if r.isSweep then .unconfirmed else .expired)) }
      (afterFall s) := by
  obtain ⟨n, hlen⟩ := exists_length_succ hr
  have hfew : s.log.records.length ≤ 13 := Nat.lt_succ_iff.1 (hroom.2.2 hhold)
  have hfind : firstDeferred s.queue = some r := by
    cases hf : firstDeferred s.queue with
    | none => exact absurd hdef (by simpa using List.find?_eq_none.1 hf r hr)
    | some x =>
      have hx := List.mem_of_find?_eq_some hf
      have hxdef : x.deferred = true := List.find?_some hf
      by_cases htag : x.tag = r.tag
      · rw [hunique x hx htag]
      · exact absurd hxdef (by rw [hothers x hx htag]; nofun)
  let done : State := { s with
    queue := withoutTag r.tag s.queue
    log := s.logWith (completionRecord s r (if r.isSweep then .unconfirmed else .expired)) }
  have hdone : completeRequest r (deferredOutcome r) s = done := by
    rw [completeRequest_of_room hroom, deferredOutcome_eq]
  have hnone : ∀ x ∈ done.queue, x.deferred = false := fun x hx => by
    obtain ⟨hmem, htag⟩ := List.mem_filter.1 hx
    exact hothers x hmem (of_decide_eq_true htag)
  have heq : afterFall s = afterFall done := by
    rw [afterFall_of_hold hhold, hlen, completeDeferred_succ hfew hfind, hdone]
    dsimp only
    rw [if_neg (by rw [hpos]; nofun), completeDeferred_of_none _ (.inr hnone),
      afterFall_of_hold (s := done) hhold, completeDeferred_of_none _ (.inr hnone)]
  rw [heq]
  exact afterFall_fallServed (s := done) hpart hhold (.inr hnone)

/-! ### The take (R177, R180) -/

/-- LOST after a take. -/
theorem lost_takeRecords (k : Nat) (s : State) : (takeRecords k s).log.lost =
    (s.log.lost && !(decide (s.cfg.fullPolicy = .hold ∧ 0 < k ∧
      (s.log.records.drop k).length < 16))) := by
  change (if s.cfg.fullPolicy = .hold ∧ 0 < k ∧ (s.log.records.drop k).length < 16 then false
    else s.log.lost) = _
  split
  · next h => rw [decide_eq_true h, Bool.not_true, Bool.and_false]
  · next h => rw [decide_eq_false h, Bool.not_false, Bool.and_true]

theorem length_outcomes (rs : List OutcomeRecord) :
    (rs.flatMap OutcomeRecord.bytes).length = 11 * rs.length := by
  induction rs with
  | nil => rfl
  | cons r rs ih =>
    rw [List.flatMap_cons, List.length_append, length_outcomeBytes, ih, List.length_cons]
    omega

end Sys2Proof.Machine

section
open Sys2Proof Sys2Proof.Machine

/-- Settles O42: the answer and the removal, then the fall by its policy. -/
theorem takeOutcomesRemovesOldest : Obligations.TakeOutcomesRemovesOldest := by
  unfold Obligations.TakeOutcomesRemovesOldest
  intro n s hport k left lost answer taken
  have hlost : lost = (takeRecords k s).log.lost := (lost_takeRecords k s).symm
  have htaken : taken = (takeRecords k s).modPort fun _ => ⟨.taken, answer⟩ := by
    dsimp only [taken]
    rw [hlost]
    rfl
  have hexec : exec (.takeOutcomes n) s = .next (if k = 0 then taken else afterFall taken) := by
    change execTakeOutcomes n s = _
    unfold execTakeOutcomes
    rw [portCommand_taken _ hport, htaken, afterFall_modPort]
    dsimp only [answer]
    rw [hlost]
    by_cases hk : k = 0
    · rw [if_pos hk, if_pos (show takeCount n s = 0 from hk)]
      rfl
    · rw [if_neg hk, if_neg (show takeCount n s ≠ 0 from hk)]
      rfl
  have hk : k ≤ s.log.records.length := Nat.min_le_right _ _
  have hprog : Progress taken (if k = 0 then taken else afterFall taken) := by
    split
    · exact .refl _
    · exact progress_afterFall _
  have hroom : 0 < k → s.cfg.fullPolicy = .hold → left.length ≤ 13 → LogHasRoom taken :=
    fun hpos hhold hlen => ⟨by
      dsimp only [taken, lost]
      rw [decide_eq_true ⟨hhold, hpos, by omega⟩, Bool.not_true, Bool.and_false],
      by change left.length < 16; omega, fun _ => Nat.lt_succ_of_le hlen⟩
  refine ⟨?_, portCommand_taken _ hport, _, hexec, ?_, hprog.log, fun hzero => if_pos hzero,
    fun hw hi hdrop => ?_, fun hw hi hguard hlen hnone => ?_, fun r hpos hhold hlen hfind => ?_,
    fun hpos hdrop => ?_, fun hpos hhold hpart => ?_⟩
  · have hbytes := length_outcomes (s.log.records.take k)
    rw [List.length_take, Nat.min_eq_left hk] at hbytes
    dsimp only [answer]
    rw [List.length_cons, List.length_cons, List.length_cons, List.length_cons, hbytes]
    omega
  · split
    · rfl
    · rw [htaken, afterFall_modPort]
      rfl
  · rw [afterFall_of_quiet (s := taken) hw hi (.inl hdrop), ite_self]
  · rw [afterFall_of_quiet (s := taken) hw hi (.inr ⟨hguard, hlen, hnone⟩), ite_self]
  · rw [if_neg (Nat.ne_of_gt hpos)]
    exact afterFall_of_deferred (s := taken) hhold (hroom hpos hhold hlen) hfind
  · rw [if_neg (Nat.ne_of_gt hpos), afterFall_of_drop (s := taken) hdrop]
    exact ⟨fun hlen => by rw [if_pos hlen]; exact evalPoint_evaluationPoint false taken,
      fun hlen => if_neg (not_le.2 hlen)⟩
  · rw [if_neg (Nat.ne_of_gt hpos)]
    refine ⟨fun h => afterFall_fallServed (s := taken) hpart hhold h,
      fun r hlen hr hdef hqueued hothers hunique => ?_⟩
    exact afterFall_of_one_deferred (s := taken) hhold hpart (hroom hpos hhold hlen) hr hdef hqueued
      hothers hunique

end
end

section
/-! SUPPORT. The wake geometry: the sine table, its folding, and the computation at a geometry point. -/

namespace Sys2Proof.Machine

/-! ### The sine table (R75, R76) -/

theorem sineTable_chain : sineTable.IsChain (· ≤ ·) := by decide +kernel

theorem sineTable_sorted : sineTable.Pairwise (· ≤ ·) :=
  List.isChain_iff_pairwise.1 sineTable_chain

theorem length_sineTable : sineTable.length = 257 := by decide +kernel

theorem quarterSine_of_entry {j q : Nat} (h : sineTable[j]? = some q) :
    quarterSine j = q ∧ j ≤ 256 := by
  obtain ⟨hlt, hq⟩ := List.getElem?_eq_some_iff.1 h
  refine ⟨?_, by rw [length_sineTable] at hlt; omega⟩
  unfold quarterSine
  rw [List.getD_eq_getElem?_getD, h]
  rfl

/-- The four quarters of a full turn, each from its own start. -/
theorem sine_first {r : Nat} (hr : r < 256) : sine r = quarterSine r := by
  unfold sine
  rw [Nat.div_eq_of_lt hr, Nat.mod_eq_of_lt hr]
  rfl

theorem sine_second {r : Nat} (hr : r < 256) : sine (256 + r) = quarterSine (256 - r) := by
  have hdiv : (256 + r) / 256 = 1 := by omega
  have hmod : (256 + r) % 256 = r := by omega
  unfold sine
  rw [hdiv, hmod]
  rfl

theorem sine_third {r : Nat} (hr : r < 256) : sine (512 + r) = -quarterSine r := by
  have hdiv : (512 + r) / 256 = 2 := by omega
  have hmod : (512 + r) % 256 = r := by omega
  unfold sine
  rw [hdiv, hmod]
  rfl

theorem sine_fourth {r : Nat} (hr : r < 256) : sine (768 + r) = -quarterSine (256 - r) := by
  have hdiv : (768 + r) / 256 = 3 := by omega
  have hmod : (768 + r) % 256 = r := by omega
  unfold sine
  rw [hdiv, hmod]
  rfl

theorem cosine_fold {d : Nat} (hd : d < 1024) :
    cosine d = if d < 768 then sine (d + 256) else sine (d - 768) := by
  unfold cosine
  split
  · rw [Nat.mod_eq_of_lt (by omega)]
  · exact congrArg sine (by omega)

/-! ### The computation (R72, R77 to R85) -/

section Wake
variable {c : Config} {direction speed : Nat} {f : Frame}

/-- The along-wind distance of a frame's position (R78). -/
def frameAlong (c : Config) (direction : Nat) (f : Frame) : Int :=
  alongWind direction ((c.east : Int) - f.east) ((c.north : Int) - f.north)

def frameAcross (c : Config) (direction : Nat) (f : Frame) : Int :=
  acrossWind direction ((c.east : Int) - f.east) ((c.north : Int) - f.north)

theorem wakeGeometry_of_upstream (h : frameAlong c direction f ≤ 0) :
    wakeGeometry c direction speed f = .notAffecting := if_pos h

theorem wakeGeometry_of_beyond (h : 0 < frameAlong c direction f)
    (hfar : c.horizon < 100 * (frameAlong c direction f).toNat / wakeSpeed c speed) :
    wakeGeometry c direction speed f = .notAffecting := (if_neg (not_le.2 h)).trans (if_pos hfar)

theorem wakeGeometry_of_near (h : 0 < frameAlong c direction f)
    (hnear : 100 * (frameAlong c direction f).toNat / wakeSpeed c speed ≤ c.horizon) :
    wakeGeometry c direction speed f =
      if inBand c f.fromOffset f.toOffset (frameAlong c direction f).toNat
        (frameAcross c direction f) then
        .affecting (frameAlong c direction f).toNat (frameAcross c direction f)
          (100 * (frameAlong c direction f).toNat / wakeSpeed c speed)
      else .notAffecting := (if_neg (not_le.2 h)).trans (if_neg (not_lt.2 hnear))

/-- The closed band in whole numbers (R83 to R85). -/
theorem inBand_iff {s : Int} (hs : 0 < s) (gamma0 gamma1 across : Int) :
    inBand c gamma0 gamma1 s.toNat across = true ↔
      min (((c.gain : Int) * gamma0 * s).tdiv 65536) (((c.gain : Int) * gamma1 * s).tdiv 65536) -
          (c.halfWidth + (c.expansion : Int) * s / 256) ≤ across ∧
        across ≤ max (((c.gain : Int) * gamma0 * s).tdiv 65536)
          (((c.gain : Int) * gamma1 * s).tdiv 65536) +
          (c.halfWidth + (c.expansion : Int) * s / 256) := by
  have hcast : ((s.toNat : Nat) : Int) = s := Int.toNat_of_nonneg hs.le
  have hwidth : ((wakeHalfWidth c s.toNat : Nat) : Int) =
      c.halfWidth + (c.expansion : Int) * s / 256 := by
    unfold wakeHalfWidth
    push_cast
    rw [hcast]
  unfold inBand deflection
  dsimp only
  rw [decide_eq_true_iff, hwidth, hcast]

end Wake

theorem hasGeometry_iff (f : Frame) : f.hasGeometry = true ↔ f.phase ≠ .idle ∧ f.phase ≠ .intent := by
  unfold Frame.hasGeometry
  cases f.phase <;> simp

end Sys2Proof.Machine

section
open Sys2Proof Sys2Proof.Machine

/-- Settles O51: the table by evaluation, its folding by the quarter, and the tests in their order. -/
theorem geometryPointComputes : Obligations.GeometryPointComputes := by
  unfold Obligations.GeometryPointComputes
  refine ⟨⟨length_sineTable, by decide +kernel, by decide +kernel, by decide +kernel, by decide +kernel,
    by decide +kernel, sineTable_sorted, fun j q h => ?_⟩, fun s => ?_⟩
  · obtain ⟨hq, hj⟩ := quarterSine_of_entry h
    refine ⟨fun hlt => ⟨by rw [sine_first hlt, hq], by rw [sine_third hlt, hq]⟩,
      fun hpos => ?_, fun d hd => cosine_fold hd⟩
    have hsecond : 512 - j = 256 + (256 - j) := by omega
    have hfourth : 1024 - j = 768 + (256 - j) := by omega
    have hback : 256 - (256 - j) = j := by omega
    rw [hsecond, hfourth, sine_second (by omega), sine_fourth (by omega), hback, hq]
    exact ⟨rfl, rfl⟩
  · have hexec : exec .geometryPoint s = execGeometryPoint s := rfl
    rw [hexec]
    unfold execGeometryPoint
    refine ⟨fun hnone => by rw [hnone], fun w hw => ⟨fun h => ?_, fun hvoid hnone hidle hintent => ?_⟩⟩
    · rw [hw]
      dsimp only
      rw [if_neg]
      rw [Bool.and_eq_true, Bool.and_eq_true, hasGeometry_iff]
      rintro ⟨⟨⟨hidle, hintent⟩, hnone⟩, hvoid⟩
      rcases h with h | h | h | h
      · rw [h] at hvoid
        cases hvoid
      · exact h (Option.isNone_iff_eq_none.1 hnone)
      · exact hidle h
      · exact hintent h
    · have hcomputes : (w.frame.hasGeometry && w.geometry.isNone && !w.void) = true := by
        rw [(hasGeometry_iff _).2 ⟨hidle, hintent⟩, hnone, hvoid]
        rfl
      rw [hw]
      dsimp only
      rw [if_pos hcomputes]
      refine ⟨_, rfl, wakeGeometry_of_upstream, wakeGeometry_of_beyond, fun hpos hnear hband => ?_,
        fun hpos hnear hout => ?_⟩
      · exact (wakeGeometry_of_near hpos hnear).trans (if_pos ((inBand_iff hpos _ _ _).2 hband))
      · exact (wakeGeometry_of_near hpos hnear).trans
          (if_neg fun hc => hout ((inBand_iff hpos _ _ _).1 hc))

end
end

section
/-! SUPPORT. The table step of an intake completion, and how a completion is made. -/

namespace Sys2Proof.Machine

/-! ### An entry's place (R55) -/

/-- An entry stands behind the stations up to its own and before the next above it. -/
def PlacedIn (entry : Neighbour) (ns t : List Neighbour) : Prop :=
  ∃ before after, ns = before ++ after ∧ t = before ++ entry :: after ∧
    (∀ n ∈ before, n.station ≤ entry.station) ∧
    ∀ n, after.head? = some n → entry.station < n.station

theorem placedIn_insertNeighbour (entry : Neighbour) (ns : List Neighbour) :
    PlacedIn entry ns (insertNeighbour entry ns) := by
  induction ns with
  | nil => exact ⟨[], [], rfl, rfl, List.forall_mem_nil _, fun n h => nomatch h⟩
  | cons v vs ih =>
    unfold insertNeighbour
    split
    · next hlt =>
      refine ⟨[], v :: vs, rfl, rfl, List.forall_mem_nil _, fun n h => ?_⟩
      cases h
      exact hlt
    · next hge =>
      obtain ⟨before, after, hns, ht, hbefore, hafter⟩ := ih
      refine ⟨v :: before, after, by rw [hns]; rfl, by rw [ht]; rfl, ?_, hafter⟩
      exact List.forall_mem_cons.2 ⟨not_lt.1 hge, hbefore⟩

/-! ### The victim of a full table (R64) -/

/-- The order in which victims are picked. -/
def VictimFirst (v m : Neighbour) : Prop :=
  v.lastHeard < m.lastHeard ∨ (v.lastHeard = m.lastHeard ∧ v.station ≤ m.station)

theorem pickVictim_eq_none {ns : List Neighbour} (h : pickVictim ns = none) : ns = [] := by
  cases ns with
  | nil => rfl
  | cons n rest =>
    unfold pickVictim at h
    split at h
    · cases h
    · split at h <;> cases h

theorem pickVictim_first {ns : List Neighbour} {v : Neighbour} (h : pickVictim ns = some v) :
    ∀ m ∈ ns, VictimFirst v m := by
  induction ns generalizing v with
  | nil => cases h
  | cons n rest ih =>
    unfold pickVictim at h
    split at h
    · next hnone =>
      cases h
      rw [pickVictim_eq_none hnone]
      exact List.forall_mem_singleton.2 (.inr ⟨rfl, le_rfl⟩)
    · next u hu =>
      have hfirst := ih hu
      split at h
      · next hearlier =>
        cases h
        have hun := of_decide_eq_true hearlier
        refine List.forall_mem_cons.2 ⟨?_, hfirst⟩
        unfold VictimFirst
        omega
      · next hlater =>
        cases h
        have hnu := of_decide_eq_false (Bool.eq_false_iff.2 hlater)
        refine List.forall_mem_cons.2 ⟨.inr ⟨rfl, le_rfl⟩, fun m hm => ?_⟩
        have hum := hfirst m hm
        unfold VictimFirst at hum ⊢
        omega

theorem not_of_pickVictim_none {ns : List Neighbour} {p : Neighbour → Bool}
    (h : pickVictim (ns.filter p) = none) : ∀ m ∈ ns, ¬p m = true :=
  List.filter_eq_nil_iff.1 (pickVictim_eq_none h)

/-- A candidate for removal: an out-of-radius entry in SETTLING, or, with none, an in-radius one in
IDLE. -/
def IsVictim (ns : List Neighbour) (n : Neighbour) : Prop :=
  (n.inRadius = false ∧ n.phase = .settling) ∨
    ((∀ m ∈ ns, ¬(m.inRadius = false ∧ m.phase = .settling)) ∧
      n.inRadius = true ∧ n.phase = .idle)

theorem settlingOut_iff (n : Neighbour) :
    (!n.inRadius && decide (n.phase = .settling)) = true ↔
      n.inRadius = false ∧ n.phase = .settling := by
  rw [Bool.and_eq_true, Bool.not_eq_true', decide_eq_true_iff]

theorem idleIn_iff (n : Neighbour) :
    (n.inRadius && decide (n.phase = .idle)) = true ↔ n.inRadius = true ∧ n.phase = .idle := by
  rw [Bool.and_eq_true, decide_eq_true_iff]

theorem victim_spec {ns : List Neighbour} {v : Neighbour} (h : victim ns = some v) :
    v ∈ ns ∧ IsVictim ns v ∧ ∀ m ∈ ns, IsVictim ns m → VictimFirst v m := by
  unfold victim at h
  split at h
  · next n hn =>
    cases h
    obtain ⟨hmem, hout⟩ := List.mem_filter.1 (mem_of_pickVictim hn)
    have hout := (settlingOut_iff v).1 hout
    refine ⟨hmem, .inl hout, fun m hm hvictim => pickVictim_first hn m (List.mem_filter.2 ⟨hm, ?_⟩)⟩
    exact (settlingOut_iff m).2 (hvictim.resolve_right fun hc => hc.1 v hmem hout)
  · next hnone =>
    have hno : ∀ m ∈ ns, ¬(m.inRadius = false ∧ m.phase = .settling) := fun m hm hout =>
      not_of_pickVictim_none hnone m hm ((settlingOut_iff m).2 hout)
    obtain ⟨hmem, hidle⟩ := List.mem_filter.1 (mem_of_pickVictim h)
    refine ⟨hmem, .inr ⟨hno, (idleIn_iff v).1 hidle⟩, fun m hm hvictim => ?_⟩
    refine pickVictim_first h m (List.mem_filter.2 ⟨hm, (idleIn_iff m).2 ?_⟩)
    exact (hvictim.resolve_left (hno m hm)).2

theorem no_victim {ns : List Neighbour} (h : victim ns = none) : ∀ v ∈ ns, ¬IsVictim ns v := by
  unfold victim at h
  split at h
  · cases h
  · next hnone =>
    rintro v hv (hout | ⟨-, hidle⟩)
    · exact not_of_pickVictim_none hnone v hv ((settlingOut_iff v).2 hout)
    · exact not_of_pickVictim_none h v hv ((idleIn_iff v).2 hidle)

/-- The first in the order of all victims has the station of the victim picked. -/
theorem victim_of_first {ns : List Neighbour} {v : Neighbour} (hmem : v ∈ ns)
    (hv : IsVictim ns v) (hfirst : ∀ m ∈ ns, IsVictim ns m → VictimFirst v m) :
    ∃ u, victim ns = some u ∧ u.station = v.station := by
  cases h : victim ns with
  | none => exact absurd hv (no_victim h v hmem)
  | some u =>
    obtain ⟨humem, hu, hufirst⟩ := victim_spec h
    have h1 := hfirst u humem hu
    have h2 := hufirst v hmem hv
    unfold VictimFirst at h1 h2
    exact ⟨u, rfl, by omega⟩

/-! ### The entry of a frame (R57 to R60) -/

theorem inRadius_iff (c : Config) (east north : Nat) : inRadius c east north = true ↔
    ((c.east : Int) - east) ^ 2 + ((c.north : Int) - north) ^ 2 ≤ (c.radius : Int) ^ 2 := by
  unfold inRadius
  rw [decide_eq_true_iff, sq, sq, sq]

theorem beginOf_eq (f : Frame) (arrival : Nat) :
    beginOf f arrival = if f.phase = .moving then some (arrival - f.timeA) else none := by
  unfold beginOf
  cases f.phase <;> rfl

theorem endOf_eq (f : Frame) (arrival : Nat) : endOf f arrival =
    if f.phase = .moving then some (later arrival f.timeB)
      else if f.phase = .settling then some (arrival - f.timeA) else none := by
  unfold endOf
  cases f.phase <;> rfl

theorem isAffecting_iff (g : Option GeometryResult) :
    isAffecting g = true ↔ ∃ a c d, g = some (.affecting a c d) := by
  unfold isAffecting
  split
  · exact ⟨fun _ => ⟨_, _, _, rfl⟩, fun _ => rfl⟩
  · exact ⟨fun h => (nomatch h), fun ⟨_, _, _, h⟩ => (nomatch h)⟩
  · exact ⟨fun h => (nomatch h), fun ⟨_, _, _, h⟩ => (nomatch h)⟩

theorem not_hasGeometry_iff (f : Frame) :
    f.hasGeometry = false ↔ f.phase = .idle ∨ f.phase = .intent := by
  rw [Bool.eq_false_iff, ne_eq, hasGeometry_iff]
  tauto

theorem qualifies_iff (c : Config) (f : Frame) (g : Option GeometryResult) :
    qualifies c f g = true ↔ inRadius c f.east f.north = true ∨
      (¬(f.phase = .idle ∨ f.phase = .intent) ∧ ∃ a b d, g = some (.affecting a b d)) := by
  unfold qualifies
  rw [Bool.or_eq_true, Bool.and_eq_true, isAffecting_iff, ← not_hasGeometry_iff,
    Bool.not_eq_false]

/-! ### The table step (R53, R58 to R65) -/

section Table
variable {f : Frame} {arrival : Nat} {g : Option GeometryResult} {s : State}

theorem find?_of_new (h : ∀ n ∈ s.neighbours, n.station ≠ f.station) :
    s.neighbours.find? (fun n => decide (n.station = f.station)) = none :=
  List.find?_eq_none.2 fun n hn => by simpa using h n hn

theorem tableStep_of_filtered (hnew : ∀ n ∈ s.neighbours, n.station ≠ f.station)
    (hno : ¬qualifies s.cfg f g = true) : tableStep f arrival g s = s := by
  unfold tableStep
  rw [find?_of_new hnew]
  exact if_neg hno

theorem tableStep_of_room (hnew : ∀ n ∈ s.neighbours, n.station ≠ f.station)
    (hyes : qualifies s.cfg f g = true) (hroom : s.neighbours.length < 48) :
    tableStep f arrival g s =
      s.modNeighbours (insertNeighbour (newEntry s.cfg f arrival)) := by
  unfold tableStep
  rw [find?_of_new hnew]
  exact (if_pos hyes).trans (if_pos hroom)

theorem tableStep_of_victim {v : Neighbour} (hnew : ∀ n ∈ s.neighbours, n.station ≠ f.station)
    (hyes : qualifies s.cfg f g = true) (hfull : 48 ≤ s.neighbours.length)
    (hv : victim s.neighbours = some v) : tableStep f arrival g s =
      s.modNeighbours fun ns =>
        insertNeighbour (newEntry s.cfg f arrival) (removeNeighbour v.station ns) := by
  unfold tableStep
  rw [find?_of_new hnew, hv]
  exact (if_pos hyes).trans (if_neg (not_lt.2 hfull))

theorem tableStep_of_full (hnew : ∀ n ∈ s.neighbours, n.station ≠ f.station)
    (hyes : qualifies s.cfg f g = true) (hfull : 48 ≤ s.neighbours.length)
    (hv : victim s.neighbours = none) :
    tableStep f arrival g s = raiseFault .tableFull (stationContext f.station) s := by
  unfold tableStep
  rw [find?_of_new hnew, hv]
  exact (if_pos hyes).trans (if_neg (not_lt.2 hfull))

theorem tableStep_of_left {n : Neighbour}
    (h : s.neighbours.find? (fun n => decide (n.station = f.station)) = some n)
    (hrest : f.hasGeometry = false) (hfar : inRadius s.cfg f.east f.north = false) :
    tableStep f arrival g s = s.modNeighbours (removeNeighbour f.station) := by
  unfold tableStep
  rw [h, hrest, hfar]
  rfl

theorem tableStep_of_update {n : Neighbour}
    (h : s.neighbours.find? (fun n => decide (n.station = f.station)) = some n)
    (hstays : f.hasGeometry = true ∨ inRadius s.cfg f.east f.north = true) :
    tableStep f arrival g s = s.modNeighbours (List.map fun m =>
      if m.station = f.station then updateEntry s.cfg f arrival n else m) := by
  unfold tableStep
  rw [h]
  refine if_neg fun hc => ?_
  rw [Bool.and_eq_true, Bool.not_eq_true', Bool.not_eq_true'] at hc
  rcases hstays with hg | hr
  · exact Bool.false_ne_true (hc.1.symm.trans hg)
  · exact Bool.false_ne_true (hc.2.symm.trans hr)

end Table

/-- A fault that is not masked stands in the status once raised (R182). -/
theorem hasKind_kindBit (a : BitVec 10) (k : FaultKind) : hasKind (a ||| kindBit k) k = true := by
  have hbit : (kindBit k).getLsbD k.index = true := by cases k <;> decide
  unfold hasKind
  rw [BitVec.getLsbD_or, hbit, Bool.or_true]

theorem hasKind_raiseFault {s : State} {k : FaultKind} (h : hasKind s.cfg.faultMasks k = false)
    (ctx : FaultContext) : hasKind (raiseFault k ctx s).recorder.status k = true := by
  rw [raiseFault_recorder]
  unfold Recorder.raised
  rw [h, if_neg Bool.false_ne_true]
  exact hasKind_kindBit _ k

/-! ### What the two steps write -/

/-- The table step writes the table, or raises TABLE-FULL over a full table. -/
theorem tableStep_writes (f : Frame) (arrival : Nat) (g : Option GeometryResult) (s : State) :
    tableStep f arrival g s = s.modNeighbours (fun _ => (tableStep f arrival g s).neighbours) ∨
    ∃ ctx, tableStep f arrival g s = raiseFault .tableFull ctx s ∧ 48 ≤ s.neighbours.length := by
  unfold tableStep
  split
  · split <;> exact .inl rfl
  · split
    · split
      · exact .inl rfl
      · next hfull =>
        split
        · exact .inl rfl
        · exact .inr ⟨_, rfl, not_lt.1 hfull⟩
    · exact .inl rfl

theorem createWindow_writes (w : Window) (s : State) :
    createWindow w s = s.modWindows (fun _ => (createWindow w s).windows) ∨
    ∃ ctx ws, createWindow w s = raiseFault .windowFull ctx (s.modWindows fun _ => ws) ∧
      32 ≤ s.windows.length := by
  unfold createWindow
  split
  · exact .inl rfl
  · split
    · exact .inl rfl
    · next hfull =>
      split
      · exact .inl rfl
      · split
        · exact .inr ⟨_, _, rfl, not_lt.1 hfull⟩
        · exact .inr ⟨_, s.windows, rfl, not_lt.1 hfull⟩

/-- The window step writes the list, or beside it raises WINDOW-FULL over a full list. -/
theorem windowWrites_writes (f : Frame) (arrival : Nat) (g : Option GeometryResult) (s : State) :
    windowWrites f arrival g s = s.modWindows (fun _ => (windowWrites f arrival g s).windows) ∨
    ∃ ctx ws, windowWrites f arrival g s = raiseFault .windowFull ctx (s.modWindows fun _ => ws) ∧
      32 ≤ s.windows.length := by
  unfold windowWrites
  split
  · dsimp only
    split
    · next along across delay =>
      obtain h | ⟨w, -, -, -, ⟨-, h⟩ | ⟨v, -, h⟩⟩ := keyStep_cases f arrival along across delay
        (s.modWindows (settleOthers s.cfg s.now arrival f.station f.move))
      · rw [h]
        exact .inl rfl
      · rw [h]
        rcases createWindow_writes w
          (s.modWindows (settleOthers s.cfg s.now arrival f.station f.move)) with
          hw | ⟨ctx, ws, hw, hfull⟩
        · exact .inl hw
        · exact .inr ⟨ctx, ws, hw, hfull.trans (List.length_filterMap_le _ _)⟩
      · rw [h]
        exact .inl rfl
    · exact .inl rfl
    · exact .inl rfl
  · exact .inl rfl

/-- What the two steps leave alone, and that the status only gains kinds. -/
structure IntakeKeeps (s t : State) : Prop where
  intake : t.intake = s.intake
  buffer : t.link.buffer = s.link.buffer
  base : t.quietMap.base = s.quietMap.base
  boundary : t.quietMap.boundary = s.quietMap.boundary
  cfg : t.cfg = s.cfg
  status : ∀ k, hasKind s.recorder.status k = true → hasKind t.recorder.status k = true

theorem intakeKeeps_raiseFault (k : FaultKind) (ctx : FaultContext) (s : State) :
    IntakeKeeps s (raiseFault k ctx s) := by
  have hkeeps := keeps_raiseFault k ctx s
  exact ⟨hkeeps.intake, hkeeps.buffer, by rw [hkeeps.quietMap], by rw [hkeeps.quietMap], hkeeps.cfg,
    (progress_raiseFault k ctx s).status⟩

theorem intakeKeeps_tableStep (f : Frame) (arrival : Nat) (g : Option GeometryResult) (s : State) :
    IntakeKeeps s (tableStep f arrival g s) := by
  rcases tableStep_writes f arrival g s with h | ⟨ctx, h, -⟩
  · rw [h]
    exact ⟨rfl, rfl, rfl, rfl, rfl, fun _ hk => hk⟩
  · rw [h]
    exact intakeKeeps_raiseFault _ _ _

theorem intakeKeeps_windowStep (f : Frame) (arrival : Nat) (g : Option GeometryResult) (s : State) :
    IntakeKeeps s (windowStep f arrival g s) := by
  rw [windowStep_eq]
  rcases windowWrites_writes f arrival g s with h | ⟨ctx, ws, h, -⟩
  · rw [h]
    exact ⟨rfl, rfl, rfl, rfl, rfl, fun _ hk => hk⟩
  · rw [h]
    obtain ⟨intake, buffer, base, boundary, cfg, status⟩ :=
      intakeKeeps_raiseFault .windowFull ctx (s.modWindows fun _ => ws)
    exact ⟨intake, buffer, base, boundary, cfg, status⟩

theorem windowStep_neighbours (f : Frame) (arrival : Nat) (g : Option GeometryResult) (s : State) :
    (windowStep f arrival g s).neighbours = s.neighbours := by
  rw [windowStep_eq]
  rcases windowWrites_writes f arrival g s with h | ⟨ctx, ws, h, -⟩
  · rw [h]
    rfl
  · rw [h]
    exact (keeps_raiseFault _ _ _).neighbours

/-! ### The completion (R51, R53) -/

theorem takeFrame_eq (s : State) : takeFrame s = { s with
    intake := (takeFrame s).intake
    link := { s.link with buffer := (takeFrame s).link.buffer } } := by
  unfold takeFrame
  split <;> rfl

theorem takeFrame_of_waiting {s : State} {a : Arrived} {rest : List Arrived}
    (hintake : s.intake = none) (hbuffer : s.link.buffer = a :: rest) :
    takeFrame s = { s with
      intake := some ⟨a.frame, a.arrival, none, false⟩
      link := { s.link with buffer := rest } } := by
  unfold takeFrame
  rw [hintake, hbuffer]
  rfl

/-- The part once an intake completion's steps and its report are made. -/
def intakeReported (w : InWork) (s : State) : State :=
  evalPoint true (intakeWrites w.frame w.arrival w.geometry s)

theorem exec_intakeCompletion_of_complete {w : InWork} {s : State} (hw : s.intake = some w)
    (hvoid : w.void = false)
    (hdone : w.frame.phase = .idle ∨ w.frame.phase = .intent ∨ w.geometry ≠ none) :
    exec .intakeCompletion s = .next (takeFrame (intakeReported w s)) := by
  have hcomplete : w.complete = true := by
    unfold InWork.complete
    rw [Bool.or_eq_true, Bool.or_eq_true, Bool.not_eq_true', not_hasGeometry_iff]
    rcases hdone with h | h | h
    · exact .inl (.inr (.inl h))
    · exact .inl (.inr (.inr h))
    · exact .inr (Option.isSome_iff_ne_none.2 h)
  change execIntakeCompletion s = _
  unfold execIntakeCompletion
  rw [hw]
  dsimp only
  rw [if_pos hcomplete, hvoid]
  rfl

theorem intakeKeeps_intakeReported (w : InWork) (s : State) :
    IntakeKeeps (s.withIntake none) (intakeReported w s) := by
  have h1 := intakeKeeps_tableStep w.frame w.arrival w.geometry (s.withIntake none)
  have h2 := intakeKeeps_windowStep w.frame w.arrival w.geometry
    (tableStep w.frame w.arrival w.geometry (s.withIntake none))
  have h3 := keeps_evalPoint true (intakeWrites w.frame w.arrival w.geometry s)
  have h4 := progress_evalPoint true (intakeWrites w.frame w.arrival w.geometry s)
  exact
    { intake := h3.intake.trans (h2.intake.trans h1.intake)
      buffer := h3.buffer.trans (h2.buffer.trans h1.buffer)
      base := (congrArg QuietMap.base h3.quietMap).trans (h2.base.trans h1.base)
      boundary := (congrArg QuietMap.boundary h3.quietMap).trans (h2.boundary.trans h1.boundary)
      cfg := h3.cfg.trans (h2.cfg.trans h1.cfg)
      status := fun k hk => h4.status k (h2.status k (h1.status k hk)) }

/-- After a completion the table is what the table step made it. -/
theorem intakeReported_neighbours (w : InWork) (s : State) :
    (takeFrame (intakeReported w s)).neighbours =
      (tableStep w.frame w.arrival w.geometry (s.withIntake none)).neighbours := by
  rw [takeFrame_eq]
  exact (keeps_evalPoint true _).neighbours.trans (windowStep_neighbours _ _ _ _)

theorem intakeReported_status {w : InWork} {s : State} {k : FaultKind}
    (h : hasKind (tableStep w.frame w.arrival w.geometry
      (s.withIntake none)).recorder.status k = true) :
    hasKind (takeFrame (intakeReported w s)).recorder.status k = true := by
  rw [takeFrame_eq]
  exact (progress_evalPoint true _).status k
    ((intakeKeeps_windowStep w.frame w.arrival w.geometry _).status k h)

end Sys2Proof.Machine

section
open Sys2Proof Sys2Proof.Machine

/-- Settles O52: the table step's branches, a newcomer's and a held station's, and the next frame. -/
theorem intakeUpdatesTable : Obligations.IntakeUpdatesTable := by
  unfold Obligations.IntakeUpdatesTable
  intro w s hw hvoid hdone f near atRest qualifying entry placedIn isVictim
  have hexec := exec_intakeCompletion_of_complete hw hvoid hdone
  have hkeeps := intakeKeeps_intakeReported w s
  have hneighbours := intakeReported_neighbours w s
  have hentry : newEntry s.cfg f w.arrival = entry := by
    unfold newEntry
    rw [beginOf_eq, endOf_eq]
  have hnear : inRadius s.cfg f.east f.north = true ↔ near := inRadius_iff _ _ _
  have hqual : qualifies s.cfg f w.geometry = true ↔ qualifying := by
    rw [qualifies_iff, hnear]
  refine ⟨_, hexec, hnear, fun hempty => ?_, fun a rest hwaiting => ?_, fun hnew => ?_,
    fun n hheld => ?_⟩
  · rw [takeFrame_of_empty (hkeeps.buffer.trans hempty)]
    exact hkeeps.intake
  · rw [takeFrame_of_waiting hkeeps.intake (hkeeps.buffer.trans hwaiting)]
    exact ⟨rfl, rfl⟩
  · refine ⟨fun hno => ?_, fun hyes hroom => ?_, fun hyes hfull => ⟨fun v hv hvictim hfirst => ?_,
      fun hnone => ?_⟩⟩
    · rw [hneighbours, tableStep_of_filtered (s := s.withIntake none) hnew fun h => hno (hqual.1 h)]
      rfl
    · rw [hneighbours, tableStep_of_room (s := s.withIntake none) hnew (hqual.2 hyes) hroom,
        State.modNeighbours_neighbours, State.withIntake_cfg, hentry]
      exact placedIn_insertNeighbour entry s.neighbours
    · obtain ⟨u, hu, hstation⟩ := victim_of_first hv hvictim hfirst
      rw [hneighbours, tableStep_of_victim (s := s.withIntake none) hnew (hqual.2 hyes) hfull hu,
        State.modNeighbours_neighbours, State.withIntake_cfg, hentry, hstation]
      exact placedIn_insertNeighbour entry (removeNeighbour v.station s.neighbours)
    · have hu : victim s.neighbours = none := by
        cases hu : victim s.neighbours with
        | none => rfl
        | some u =>
          obtain ⟨hmem, hvictim, -⟩ := victim_spec hu
          exact absurd hvictim (hnone u hmem)
      have hstep := tableStep_of_full (arrival := w.arrival) (s := s.withIntake none) hnew
        (hqual.2 hyes) hfull hu
      refine ⟨?_, fun hmask => intakeReported_status ?_⟩
      · rw [hneighbours, hstep]
        exact (keeps_raiseFault _ _ _).neighbours
      · rw [hstep]
        exact hasKind_raiseFault (s := s.withIntake none) hmask _
  · refine ⟨fun hrest hfar => ?_, fun hstays => ?_⟩
    · rw [hneighbours, tableStep_of_left (s := s.withIntake none) hheld
        ((not_hasGeometry_iff _).2 hrest) (Bool.eq_false_iff.2 fun h => hfar (hnear.1 h))]
      rfl
    · have hkept : f.hasGeometry = true ∨ inRadius s.cfg f.east f.north = true :=
        hstays.imp (fun h => Bool.not_eq_false _ ▸ fun hc => h ((not_hasGeometry_iff _).1 hc)) hnear.2
      rw [hneighbours, tableStep_of_update (s := s.withIntake none) hheld hkept,
        State.modNeighbours_neighbours, State.withIntake_cfg, State.withIntake_neighbours]
      unfold updateEntry
      rw [hentry, beginOf_eq]

end
end

section
/-! SUPPORT. The window step of an intake completion, and its report to the engine. -/

namespace Sys2Proof.Machine

/-! ### A report told beside the intake, the buffer and the recorder -/

/-- The part with another intake, another buffer and another recorder. -/
def reframed (i : Option InWork) (b : List Arrived) (f : Recorder) (u : State) : State :=
  { u with intake := i, recorder := f, link := { u.link with buffer := b } }

section Reframed
variable {s t : State} {r : Request} {rest : List Request} (i : Option InWork) (b : List Arrived)
  (f : Recorder)

theorem Link.sendsAnew_buffer (lane : Bool) (e : Edition) (l : Link) (b : List Arrived) :
    { l with buffer := b }.sendsAnew lane e = { l.sendsAnew lane e with buffer := b } := by
  unfold Link.sendsAnew Link.attempting
  dsimp only
  split
  · split <;> rfl
  · rfl

theorem Announced.reframed {p : Phase} {c : Cls} {age : Nat} {x y : Int}
    (h : Announced s t p c age x y) :
    Announced (reframed i b f s) (reframed i b f t) p c age x y := by
  have hedition : (Machine.reframed i b f t).edition p c age x y = t.edition p c age x y := rfl
  have hmove : (Machine.reframed i b f t).builder = t.builder := rfl
  have hlink : ∀ {l : Link}, t.link = l →
      (Machine.reframed i b f t).link = { l with buffer := b } := fun hl => by
    rw [← hl]
    rfl
  have hsent : t.link = s.link.sendsAnew s.pins.laneActive (t.edition p c age x y) →
      (Machine.reframed i b f t).link = (Machine.reframed i b f s).link.sendsAnew
        (Machine.reframed i b f s).pins.laneActive (t.edition p c age x y) := fun hl =>
    (hlink hl).trans (Link.sendsAnew_buffer _ _ _ _).symm
  unfold Announced at h ⊢
  rw [hedition, hmove]
  cases hslot : s.link.slot.edition with
  | none =>
    have hslot' : (Machine.reframed i b f s).link.slot.edition = none := hslot
    rw [hslot] at h
    rw [hslot']
    exact hsent h
  | some old =>
    have hslot' : (Machine.reframed i b f s).link.slot.edition = some old := hslot
    rw [hslot] at h
    rw [hslot']
    dsimp only at h ⊢
    by_cases hsame : old.phase = p ∧ old.fromOffset = x ∧ old.toOffset = y
    · rw [if_pos hsame] at h ⊢
      by_cases hall : old.cls = c ∧ old.move = t.builder.move ∧ old.claimAge = age
      · rw [if_pos hall] at h ⊢
        exact hlink h
      · rw [if_neg hall] at h ⊢
        exact hlink h
    · rw [if_neg hsame] at h ⊢
      exact hsent h

theorem OnlyWithdrawn.reframed (h : OnlyWithdrawn s t) :
    OnlyWithdrawn (reframed i b f s) (reframed i b f t) := by
  obtain ⟨⟨hengine, hqueue, hbuilder, hannounced⟩, hrest⟩ := h
  exact ⟨⟨hengine, hqueue, hbuilder, hannounced.reframed i b f⟩,
    congrArg (Machine.reframed i b f) hrest⟩

theorem IntentYields.reframed (h : IntentYields s t r rest) :
    IntentYields (reframed i b f s) (reframed i b f t) r rest := by
  obtain ⟨hbelow, hlimit⟩ := h
  refine ⟨fun hlt => ?_, fun hle hroom => ?_⟩
  · obtain ⟨hannounced, hrest⟩ := hbelow hlt
    exact ⟨hannounced.reframed i b f, congrArg (Machine.reframed i b f) hrest⟩
  · obtain ⟨hlog, htags, hempty⟩ := hlimit hle hroom
    refine ⟨hlog, htags, fun hnil => ?_⟩
    obtain ⟨hannounced, hrest⟩ := hempty hnil
    exact ⟨hannounced.reframed i b f, congrArg (Machine.reframed i b f) hrest⟩

theorem GrantEntered.reframed (h : GrantEntered s t r rest) :
    GrantEntered (reframed i b f s) (reframed i b f t) r rest := by
  obtain ⟨hannounced, hrest⟩ := h
  exact ⟨hannounced.reframed i b f, congrArg (Machine.reframed i b f) hrest⟩

theorem CommitTested.reframed (h : CommitTested s t r rest) :
    CommitTested (reframed i b f s) (reframed i b f t) r rest := by
  obtain ⟨hlost, htests⟩ := h
  refine ⟨fun hc => (hlost hc).reframed i b f, fun hheld hquiet => ?_⟩
  obtain ⟨hyields, hgranted⟩ := htests hheld hquiet
  exact ⟨fun hc => (hyields hc).reframed i b f, fun hc => (hgranted hc).reframed i b f⟩

theorem IntentTested.reframed {atIntake : Bool} (h : IntentTested atIntake s t r rest) :
    IntentTested atIntake (reframed i b f s) (reframed i b f t) r rest := by
  obtain ⟨hlost, htests⟩ := h
  refine ⟨fun hc => (hlost hc).reframed i b f, fun hheld hquiet => ?_⟩
  obtain ⟨hyields, helse⟩ := htests hheld hquiet
  refine ⟨fun hat hc => (hyields hat hc).reframed i b f, fun hc => ?_⟩
  obtain ⟨hcommits, hstays⟩ := helse hc
  exact ⟨fun hexpired hecho => (hcommits hexpired hecho).reframed i b f,
    fun hno => congrArg (Machine.reframed i b f) (hstays hno)⟩

theorem HeadEvaluated.reframed (h : HeadEvaluated s t r rest) :
    HeadEvaluated (reframed i b f s) (reframed i b f t) r rest := by
  obtain ⟨hstays, hpasses, hzero⟩ := h
  refine ⟨fun hc => congrArg (Machine.reframed i b f) (hstays hc), fun hc => ?_,
    fun hheld heligible htarget hroom => ?_⟩
  · obtain ⟨⟨hengine, hqueue, hbuilder, hannounced⟩, hrest⟩ := hpasses hc
    exact ⟨⟨hengine, hqueue, hbuilder, hannounced.reframed i b f⟩,
      congrArg (Machine.reframed i b f) hrest⟩
  · obtain ⟨hlog, htags, hempty⟩ := hzero hheld heligible htarget hroom
    exact ⟨hlog, htags, fun hnil => congrArg (Machine.reframed i b f) (hempty hnil)⟩

/-- An evaluation point stays one in other surroundings of the receive path. -/
theorem EvaluationPoint.reframed {atIntake : Bool} (h : EvaluationPoint atIntake s t) :
    EvaluationPoint atIntake (reframed i b f s) (reframed i b f t) := by
  obtain ⟨hother, hnone, hhead⟩ := h
  refine ⟨fun hw hi => congrArg (Machine.reframed i b f) (hother hw hi),
    fun hw hq => congrArg (Machine.reframed i b f) (hnone hw hq), fun r rest hq => ?_⟩
  obtain ⟨hwaiting, hintent⟩ := hhead r rest hq
  exact ⟨fun hc => (hwaiting hc).reframed i b f, fun hc => (hintent hc).reframed i b f⟩

end Reframed

/-! ### What a completion reports from -/

/-- With no fault of a full table that is FATAL, the table step changes the table and the
recorder. -/
theorem tableStep_mild {f : Frame} {arrival : Nat} {g : Option GeometryResult} {s : State}
    (h : setsHalt s.cfg .tableFull = false ∨ s.neighbours.length < 48) :
    tableStep f arrival g s = { s with
      neighbours := (tableStep f arrival g s).neighbours
      recorder := (tableStep f arrival g s).recorder } := by
  rcases tableStep_writes f arrival g s with hstep | ⟨ctx, hstep, hfull⟩
  · rw [hstep]
    rfl
  · rw [hstep, raiseFault_of_recorded (.inl (h.resolve_right (not_lt.2 hfull)))]

theorem windowWrites_mild {f : Frame} {arrival : Nat} {g : Option GeometryResult} {s : State}
    (h : setsHalt s.cfg .windowFull = false ∨ s.windows.length < 32) :
    windowWrites f arrival g s = { s with
      windows := (windowWrites f arrival g s).windows
      recorder := (windowWrites f arrival g s).recorder } := by
  rcases windowWrites_writes f arrival g s with hstep | ⟨ctx, ws, hstep, hfull⟩
  · rw [hstep]
    rfl
  · rw [hstep, raiseFault_of_recorded (s := s.modWindows fun _ => ws)
      (.inl (h.resolve_right (not_lt.2 hfull)))]
    rfl

theorem intakeWrites_mild {f : Frame} {arrival : Nat} {g : Option GeometryResult} {s : State}
    (htable : setsHalt s.cfg .tableFull = false ∨ s.neighbours.length < 48)
    (hwindow : setsHalt s.cfg .windowFull = false ∨ s.windows.length < 32) :
    ∃ ns ws m r, intakeWrites f arrival g s = { s with
      intake := none, neighbours := ns, windows := ws, quietMap := m, recorder := r } := by
  have hT := tableStep_mild (f := f) (arrival := arrival) (g := g) (s := s.withIntake none) htable
  have hW : intakeWrites f arrival g s =
      rederive (windowWrites f arrival g (tableStep f arrival g (s.withIntake none))) := rfl
  generalize tableStep f arrival g (s.withIntake none) = T at hT hW
  have hu := windowWrites_mild (f := f) (arrival := arrival) (g := g) (s := T)
    (by rw [hT]; exact hwindow)
  generalize windowWrites f arrival g T = u at hu hW
  refine ⟨T.neighbours, u.windows, (rederive u).quietMap, u.recorder, hW.trans ?_⟩
  exact (congrArg (fun v : State => { v with quietMap := (rederive u).quietMap }) hu).trans
    (congrArg (fun v : State => { v with
      windows := u.windows, recorder := u.recorder, quietMap := (rederive u).quietMap }) hT)

/-- The map after the window step is formed afresh from the list (R102). -/
theorem windowStep_quietMap (f : Frame) (arrival : Nat) (g : Option GeometryResult) (s : State) :
    (windowStep f arrival g s).quietMap = { s.quietMap with
      bins := deriveBins s.quietMap.base (binPeriod s.cfg) (windowStep f arrival g s).windows } := by
  rw [windowStep_eq]
  rcases windowWrites_writes f arrival g s with hstep | ⟨ctx, ws, hstep, -⟩
  · rw [hstep]
    rfl
  · rw [hstep]
    have hkeeps := keeps_raiseFault .windowFull ctx (s.modWindows fun _ => ws)
    unfold rederive
    rw [State.modMap_quietMap, hkeeps.quietMap, hkeeps.cfg]
    rfl

theorem tableStep_quietMap (f : Frame) (arrival : Nat) (g : Option GeometryResult) (s : State) :
    (tableStep f arrival g s).quietMap = s.quietMap ∧ (tableStep f arrival g s).cfg = s.cfg ∧
      (tableStep f arrival g s).now = s.now := by
  rcases tableStep_writes f arrival g s with hstep | ⟨ctx, hstep, -⟩
  · rw [hstep]
    exact ⟨rfl, rfl, rfl⟩
  · rw [hstep]
    have hkeeps := keeps_raiseFault .tableFull ctx s
    exact ⟨hkeeps.quietMap, hkeeps.cfg, hkeeps.now⟩

/-! ### The windows after the step (R91 to R97) -/

theorem insertWindow_perm (w : Window) (ws : List Window) : (insertWindow w ws).Perm (w :: ws) := by
  induction ws with
  | nil => exact .refl _
  | cons v vs ih =>
    unfold insertWindow
    split
    · exact .refl _
    · exact (ih.cons v).trans (.swap w v vs)

theorem removeWindow_of_absent {station : Nat} {move : Byte} {ws : List Window}
    (h : ws.find? (fun v => v.hasKey station move) = none) : removeWindow station move ws = ws :=
  List.filter_eq_self.2 fun v hv => by
    rw [Bool.eq_false_iff.2 (List.find?_eq_none.1 h v hv)]
    rfl

/-- The window an affecting frame gives, from the one held for its key (R94 to R96). -/
def frameWindow (c : Config) (f : Frame) (arrival along : Nat) (across : Int) (delay : Nat)
    (held : Option Window) : Window :=
  match f.phase, held with
  | .committed, _ => committedWindow c f arrival along across delay
  | .settling, some v => settlingWindow c f arrival v.begins along across delay
  | .settling, none => settlingWindow c f arrival
      (arrival - f.timeA - moveDuration c (f.toOffset - f.fromOffset)) along across delay
  | _, _ => movingWindow c f arrival along across delay

theorem frameWindow_key (c : Config) (f : Frame) (arrival along : Nat) (across : Int) (delay : Nat)
    (held : Option Window) : (frameWindow c f arrival along across delay held).station = f.station ∧
      (frameWindow c f arrival along across delay held).move = f.move := by
  unfold frameWindow
  split <;> exact ⟨rfl, rfl⟩

section Key
variable {f : Frame} {arrival along : Nat} {across : Int} {delay : Nat} {s : State}

theorem keyStep_of_absent (hmoves : f.hasGeometry = true)
    (h : s.windows.find? (fun v => v.hasKey f.station f.move) = none) :
    keyStep f arrival along across delay s =
      createWindow (frameWindow s.cfg f arrival along across delay none) s := by
  obtain ⟨hidle, hintent⟩ := (hasGeometry_iff f).1 hmoves
  unfold keyStep frameWindow
  rw [h]
  cases hp : f.phase with
  | idle => exact absurd hp hidle
  | intent => exact absurd hp hintent
  | _ => rfl

theorem keyStep_of_held {v : Window} (hmoves : f.hasGeometry = true)
    (h : s.windows.find? (fun v => v.hasKey f.station f.move) = some v) :
    keyStep f arrival along across delay s =
      replaceWindow (frameWindow s.cfg f arrival along across delay (some v)) s := by
  obtain ⟨hidle, hintent⟩ := (hasGeometry_iff f).1 hmoves
  unfold keyStep frameWindow
  rw [h]
  cases hp : f.phase with
  | idle => exact absurd hp hidle
  | intent => exact absurd hp hintent
  | _ => rfl

end Key

section Create
variable {w : Window} {s : State}

theorem createWindow_of_over (h : w.runs s.now = false) : createWindow w s = s := by
  unfold createWindow
  rw [h]
  rfl

theorem createWindow_of_room (hruns : w.runs s.now = true) (hroom : s.windows.length < 32) :
    createWindow w s = s.modWindows (insertWindow w) := by
  unfold createWindow
  rw [hruns]
  exact if_pos hroom

/-- A full list: the window that opens latest is lost, with WINDOW-FULL raised. -/
theorem createWindow_of_full {last : Window} (hruns : w.runs s.now = true)
    (hfull : 32 ≤ s.windows.length) (hlast : s.windows.getLast? = some last) :
    createWindow w s =
      if heldTime w.openTime < heldTime last.openTime then
        raiseFault .windowFull (windowContext last)
          (s.modWindows fun ws => insertWindow w ws.dropLast)
      else raiseFault .windowFull (windowContext w) s := by
  unfold createWindow
  rw [hruns, hlast]
  exact if_neg (not_lt.2 hfull)

theorem createWindow_full_windows {last : Window} (hruns : w.runs s.now = true)
    (hfull : 32 ≤ s.windows.length) (hlast : s.windows.getLast? = some last) :
    (hasKind s.cfg.faultMasks .windowFull = false →
      hasKind (createWindow w s).recorder.status .windowFull = true) ∧
    (heldTime w.openTime < heldTime last.openTime →
      (createWindow w s).windows = insertWindow w s.windows.dropLast) ∧
    (heldTime last.openTime ≤ heldTime w.openTime → (createWindow w s).windows = s.windows) := by
  rw [createWindow_of_full hruns hfull hlast]
  refine ⟨fun hmask => ?_, fun hlt => ?_, fun hle => ?_⟩
  · split
    · exact hasKind_raiseFault
        (s := s.modWindows fun ws => insertWindow w ws.dropLast) hmask _
    · exact hasKind_raiseFault hmask _
  · rw [if_pos hlt]
    exact (keeps_raiseFault _ _ _).windows
  · rw [if_neg (not_lt.2 hle)]
    exact (keeps_raiseFault _ _ _).windows

end Create

section Writes
variable {f : Frame} {arrival : Nat} {g : Option GeometryResult} {s : State}

/-- The list with the windows of the station's other moves settled (R93). -/
abbrev othersSettled (f : Frame) (arrival : Nat) (s : State) : List Window :=
  settleOthers s.cfg s.now arrival f.station f.move s.windows

theorem windowWrites_of_rest (h : f.hasGeometry = false) : (windowWrites f arrival g s).windows =
    settleStation s.cfg s.now arrival f.station s.windows := by
  unfold windowWrites
  rw [h]
  rfl

theorem windowWrites_of_clear (h : f.hasGeometry = true) (hg : g = some .notAffecting) :
    (windowWrites f arrival g s).windows =
      removeWindow f.station f.move (othersSettled f arrival s) := by
  unfold windowWrites
  rw [h, hg]
  rfl

theorem windowWrites_of_affecting {along : Nat} {across : Int} {delay : Nat}
    (h : f.hasGeometry = true) (hg : g = some (.affecting along across delay)) :
    windowWrites f arrival g s = keyStep f arrival along across delay
      (s.modWindows (settleOthers s.cfg s.now arrival f.station f.move)) := by
  unfold windowWrites
  rw [h, hg]
  rfl

end Writes

/-- What an affecting frame makes of the list, its key's window and the others given (R91, R92). -/
theorem affecting_windows {f : Frame} {arrival along : Nat} {across : Int} {delay : Nat} {s : State}
    {held : Option Window} {new : Window} (hmoves : f.hasGeometry = true)
    (hheld : s.windows.find? (fun v => v.hasKey f.station f.move) = held)
    (hnew : frameWindow s.cfg f arrival along across delay held = new) :
    (new.runs s.now = false →
      (keyStep f arrival along across delay s).windows = removeWindow f.station f.move s.windows) ∧
    (new.runs s.now = true → (held ≠ none ∨ s.windows.length < 32) →
      (keyStep f arrival along across delay s).windows =
        insertWindow new (removeWindow f.station f.move s.windows)) ∧
    (new.runs s.now = true → held = none → 32 ≤ s.windows.length → ∀ last,
      s.windows.getLast? = some last →
      (hasKind s.cfg.faultMasks .windowFull = false →
        hasKind (keyStep f arrival along across delay s).recorder.status .windowFull = true) ∧
      (heldTime new.openTime < heldTime last.openTime →
        (keyStep f arrival along across delay s).windows = insertWindow new s.windows.dropLast) ∧
      (heldTime last.openTime ≤ heldTime new.openTime →
        (keyStep f arrival along across delay s).windows = s.windows)) := by
  obtain ⟨hstation, hmove⟩ := frameWindow_key s.cfg f arrival along across delay held
  rw [hnew] at hstation hmove
  cases held with
  | none =>
    rw [keyStep_of_absent hmoves hheld, hnew, removeWindow_of_absent hheld]
    refine ⟨fun hover => ?_, fun hruns hroom => ?_, fun hruns _ hfull last hlast =>
      createWindow_full_windows hruns hfull hlast⟩
    · rw [createWindow_of_over hover]
    · rw [createWindow_of_room hruns (hroom.resolve_left fun h => h rfl)]
      rfl
  | some v =>
    rw [keyStep_of_held hmoves hheld, hnew]
    unfold replaceWindow
    rw [hstation, hmove]
    exact ⟨fun hover => by rw [hover]; rfl, fun hruns _ => by rw [hruns]; rfl,
      fun _ hc => nomatch hc⟩

end Sys2Proof.Machine

section
open Sys2Proof Sys2Proof.Machine

/-- Settles O53: the map, the report told beside the receive path, and the list by the frame. -/
theorem intakeUpdatesWindows : Obligations.IntakeUpdatesWindows := by
  unfold Obligations.IntakeUpdatesWindows
  intro w s hw hvoid hdone f atRest closing frozen runs settled others key made
  have hexec := exec_intakeCompletion_of_complete hw hvoid hdone
  let T := tableStep w.frame w.arrival w.geometry (s.withIntake none)
  obtain ⟨hTmap, hTcfg, hTnow⟩ := tableStep_quietMap w.frame w.arrival w.geometry (s.withIntake none)
  have hTwindows : T.windows = s.windows := tableStep_windows _ _ _ _
  have hkeeps := keeps_evalPoint true (intakeWrites w.frame w.arrival w.geometry s)
  have hwindows : (takeFrame (intakeReported w s)).windows =
      (windowWrites w.frame w.arrival w.geometry T).windows := by
    rw [takeFrame_eq]
    exact hkeeps.windows
  have hsettled : ∀ v : Window, settled v = match v.state with
      | .provisional => none
      | .live => if (v.freezeAt s.cfg w.arrival).runs s.now then some (v.freezeAt s.cfg w.arrival)
          else none
      | .frozen => some v := fun v => by
    dsimp only [settled]
    cases v.state <;> rfl
  have hothers : othersSettled w.frame w.arrival T = others := by
    change settleOthers T.cfg T.now _ _ _ T.windows = _
    rw [hTwindows, show T.cfg = s.cfg from hTcfg, show T.now = s.now from hTnow]
    refine List.filterMap_congr fun v _ => ?_
    rewrite [hsettled]
    exact if_congr Iff.rfl (by cases v.state <;> rfl) rfl
  have hmove : ¬atRest → w.frame.hasGeometry = true := fun hc => by
    rw [← Bool.not_eq_false, not_hasGeometry_iff]
    exact hc
  refine ⟨_, hexec, ?_, fun htable hwindow => ?_, fun hrest => ?_, fun hmoves hclear => ?_,
    fun a c d hmoves haffecting => ?_⟩
  · have hmap := windowStep_quietMap w.frame w.arrival w.geometry T
    rw [show T.quietMap = s.quietMap from hTmap, show T.cfg = s.cfg from hTcfg] at hmap
    rw [takeFrame_eq]
    change (intakeReported w s).quietMap = { s.quietMap with
      bins := deriveBins s.quietMap.base (binPeriod s.cfg) (intakeReported w s).windows }
    rw [show (intakeReported w s).quietMap = _ from hkeeps.quietMap,
      show (intakeReported w s).windows = _ from hkeeps.windows]
    exact hmap
  · obtain ⟨ns, ws, m, r, hW⟩ := intakeWrites_mild (f := w.frame) (arrival := w.arrival)
      (g := w.geometry) htable hwindow
    have hpoint : EvaluationPoint true (intakeWrites w.frame w.arrival w.geometry s)
        (intakeReported w s) := evalPoint_evaluationPoint true _
    rw [hW] at hpoint
    have hns : (takeFrame (intakeReported w s)).neighbours = ns := by
      rw [takeFrame_eq]
      exact hkeeps.neighbours.trans (congrArg State.neighbours hW)
    have hws : (takeFrame (intakeReported w s)).windows = ws := by
      rw [takeFrame_eq]
      exact hkeeps.windows.trans (congrArg State.windows hW)
    have hm : (takeFrame (intakeReported w s)).quietMap = m := by
      rw [takeFrame_eq]
      exact hkeeps.quietMap.trans (congrArg State.quietMap hW)
    have hr : (takeFrame (intakeReported w s)).recorder = (intakeReported w s).recorder := by
      rw [takeFrame_eq]
    have hafter : reframed (takeFrame (intakeReported w s)).intake
        (takeFrame (intakeReported w s)).link.buffer (intakeReported w s).recorder
        (intakeReported w s) = takeFrame (intakeReported w s) := (takeFrame_eq _).symm
    have hafterwards := hpoint.reframed (takeFrame (intakeReported w s)).intake
      (takeFrame (intakeReported w s)).link.buffer (intakeReported w s).recorder
    rw [hafter] at hafterwards
    rw [hns, hws, hm, hr]
    exact hafterwards
  · rw [hwindows, windowWrites_of_rest ((not_hasGeometry_iff _).2 hrest), hTwindows,
      show T.cfg = s.cfg from hTcfg, show T.now = s.now from hTnow]
    refine List.filterMap_congr fun v _ => ?_
    rewrite [hsettled]
    exact if_congr Iff.rfl (by cases v.state <;> rfl) rfl
  · rewrite [hwindows, windowWrites_of_clear (hmove hmoves) hclear, hothers]
    rfl
  · have hstep :=
      windowWrites_of_affecting (arrival := w.arrival) (s := T) (hmove hmoves) haffecting
    let v := T.modWindows (settleOthers T.cfg T.now w.arrival f.station f.move)
    have hv : v.windows = others := hothers
    have hcfg : v.cfg = s.cfg := hTcfg
    have hnow : v.now = s.now := hTnow
    have hnew : frameWindow v.cfg f w.arrival a c d key = made a c d := by
      rw [hcfg]
      obtain ⟨hidle, hintent⟩ := (hasGeometry_iff w.frame).1 (hmove hmoves)
      dsimp only [made, f]
      unfold frameWindow
      cases hp : w.frame.phase with
      | idle => exact absurd hp hidle
      | intent => exact absurd hp hintent
      | committed => rfl
      | moving => rfl
      | settling => cases key <;> rfl
    have hlist := affecting_windows (s := v) (hmove hmoves) (held := key) (by rw [hv]) hnew
    rw [hv, hnow, hcfg] at hlist
    obtain ⟨hover, hplaced, hfull⟩ := hlist
    refine ⟨fun hr => ?_, fun hr hroom => ?_, fun hr hnone hlen last hlast => ?_⟩
    · rw [hwindows, hstep]
      exact hover hr
    · rw [hwindows, hstep, hplaced hr hroom]
      exact ⟨rfl, insertWindow_perm _ _⟩
    · obtain ⟨hfault, hearlier, hlater⟩ := hfull hr hnone hlen last hlast
      refine ⟨fun hmask => ?_, fun hlt => ?_, fun hle => ?_⟩
      · rw [takeFrame_eq]
        refine (progress_evalPoint true _).status _ ?_
        change hasKind (windowWrites w.frame w.arrival w.geometry T).recorder.status _ = true
        rw [hstep]
        exact hfault hmask
      · rw [hwindows, hstep]
        exact hearlier hlt
      · rw [hwindows, hstep]
        exact hlater hle

end
end

section
/-! SUPPORT. The encodings read back: a command's record, and an announcement's frame. -/

namespace Sys2Proof.Machine

/-! ### Readers of a record (R188) -/

/-- A reader takes exactly these bytes for the value, whatever follows, and nothing from a part of
them. -/
structure Reads {α : Type} (take : List Byte → Option (α × List Byte)) (v : α) (bytes : List Byte) :
    Prop where
  whole : ∀ more, take (bytes ++ more) = some (v, more)
  short : ∀ cut, cut < bytes.length → take (bytes.take cut) = none

theorem word_of_halves (w : W16) : w.extractLsb' 8 8 ++ w.extractLsb' 0 8 = w := by
  apply BitVec.eq_of_getLsbD_eq
  intro i hi
  rw [BitVec.getLsbD_append, BitVec.getLsbD_extractLsb', BitVec.getLsbD_extractLsb']
  by_cases h : i < 8
  · simp [h]
  · have h8 : i - 8 < 8 := by omega
    have hsum : 8 + (i - 8) = i := by omega
    simp [h, h8, hsum]

theorem reads_takeWord (w : W16) : Reads takeWord w (putWord w) where
  whole more := congrArg (fun v => some (v, more)) (word_of_halves w)
  short cut hcut := by
    have hlt : cut < 2 := hcut
    interval_cases cut <;> rfl

theorem reads_takeByte (b : Byte) : Reads takeByte b [b] where
  whole _ := rfl
  short cut hcut := by
    have hlt : cut < 1 := hcut
    interval_cases cut
    rfl

section Readers
variable {α β : Type} {take : List Byte → Option (α × List Byte)} {v : α} {bytes : List Byte}

/-- One field after another: `next` reads on from the field and the bytes behind it. -/
theorem Reads.bind (h : Reads take v bytes) {next : α × List Byte → Option (β × List Byte)} {x : β}
    {more : List Byte} (k : Reads (fun l => next (v, l)) x more) :
    Reads (fun l => take l >>= next) x (bytes ++ more) where
  whole rest := by
    rw [List.append_assoc, h.whole]
    exact k.whole rest
  short cut hcut := by
    rw [List.length_append] at hcut
    rw [List.take_append]
    by_cases hin : cut < bytes.length
    · rw [Nat.sub_eq_zero_of_le hin.le, List.take_zero, List.append_nil, h.short cut hin]
      rfl
    · rw [List.take_of_length_le (not_lt.1 hin), h.whole]
      exact k.short _ (by omega)

/-- The last field. -/
theorem Reads.last (h : Reads take v bytes) {next : α × List Byte → Option (β × List Byte)} {x : β}
    (hnext : ∀ l, next (v, l) = some (x, l)) : Reads (fun l => take l >>= next) x bytes where
  whole rest := by
    rw [h.whole]
    exact hnext rest
  short cut hcut := by
    rw [h.short cut hcut]
    rfl

end Readers

theorem reads_takeConfig (c : ConfigWire) : Reads takeConfig c c.bytes := by
  unfold ConfigWire.bytes
  simp only [List.append_assoc]
  unfold takeConfig
  iterate 16 refine (reads_takeWord _).bind ?_
  refine (reads_takeByte _).bind ?_
  iterate 5 refine (reads_takeWord _).bind ?_
  refine (reads_takeByte _).bind ?_
  iterate 3 refine (reads_takeWord _).bind ?_
  refine (reads_takeByte _).bind ((reads_takeWord _).bind ((reads_takeByte _).bind ?_))
  refine (reads_takeWord _).bind ((reads_takeByte _).bind ((reads_takeWord _).bind ?_))
  exact (reads_takeWord _).last fun _ => rfl

/-! ### Commands (R188, R189) -/

/-- A record is its code byte and what the code's fields read. -/
theorem Reads.record {code : Byte} {i : Instr} {bytes : List Byte}
    (h : Reads (decodeFields code) i bytes) : Reads decodeRecord i (code :: bytes) where
  whole := h.whole
  short cut hcut := by
    cases cut with
    | zero => rfl
    | succ n => exact h.short n (Nat.lt_of_succ_lt_succ hcut)

/-- A code without fields is a whole record. -/
theorem reads_of_no_fields {code : Byte} {i : Instr}
    (h : ∀ bs, decodeFields code bs = some (i, bs)) : Reads (decodeFields code) i [] where
  whole := h
  short _ hcut := absurd hcut (Nat.not_lt_zero _)

/-- A code that names no command is a whole record. -/
theorem decodeFields_of_unknown {code : Byte} (h : (Instr.unknownCode code).wellFormed = true)
    (bs : List Byte) : decodeFields code bs = some (.unknownCode code, bs) := by
  have hcode : ∀ n : Nat, knownCodes.contains (BitVec.ofNat 8 n) = true → code.toNat ≠ n :=
    fun n hn hc => by
      rw [← hc, BitVec.ofNat_toNat, BitVec.setWidth_eq] at hn
      have hno : (!knownCodes.contains code) = true := h
      rw [hn] at hno
      cases hno
  unfold decodeFields
  split
  case h_22 => rfl
  all_goals
    next hn => exact absurd hn (hcode _ (by decide))

/-- The record of every command is what its reader takes. -/
theorem reads_encodeRecord {i : Instr} {bs : List Byte} (hi : i.wellFormed = true)
    (h : encodeRecord i = some bs) : Reads decodeRecord i bs := by
  cases i with
  | configure r =>
    cases h
    exact Reads.record ((reads_takeConfig r).last fun _ => rfl)
  | start offset =>
    cases h
    exact Reads.record ((reads_takeWord offset).last fun _ => rfl)
  | wind direction speed =>
    cases h
    exact Reads.record ((reads_takeWord direction).bind ((reads_takeWord speed).last fun _ => rfl))
  | submit tag cls target waiveFlag waiveDelay expiryFlag expiryDelay =>
    cases h
    simp only [List.append_assoc]
    refine Reads.record ((reads_takeWord tag).bind ((reads_takeByte cls).bind ?_))
    refine (reads_takeWord target).bind ((reads_takeByte waiveFlag).bind ?_)
    refine (reads_takeWord waiveDelay).bind ((reads_takeByte expiryFlag).bind ?_)
    exact (reads_takeWord expiryDelay).last fun _ => rfl
  | submitSweep tag cls step count pacing interval policy =>
    cases h
    simp only [List.append_assoc]
    refine Reads.record ((reads_takeWord tag).bind ((reads_takeByte cls).bind ?_))
    refine (reads_takeWord step).bind ((reads_takeWord count).bind ?_)
    refine (reads_takeByte pacing).bind ((reads_takeWord interval).bind ?_)
    exact (reads_takeByte policy).last fun _ => rfl
  | extend tag extension =>
    cases h
    exact Reads.record ((reads_takeWord tag).bind ((reads_takeWord extension).last fun _ => rfl))
  | cancel tag =>
    cases h
    exact Reads.record ((reads_takeWord tag).last fun _ => rfl)
  | begun tag =>
    cases h
    exact Reads.record ((reads_takeWord tag).last fun _ => rfl)
  | ended tag achieved =>
    cases h
    exact Reads.record ((reads_takeWord tag).bind ((reads_takeWord achieved).last fun _ => rfl))
  | clearHold source =>
    cases h
    exact Reads.record ((reads_takeByte source).last fun _ => rfl)
  | takeOutcomes n =>
    cases h
    exact Reads.record ((reads_takeByte n).last fun _ => rfl)
  | readNeighbours first =>
    cases h
    exact Reads.record ((reads_takeByte first).last fun _ => rfl)
  | readWindows first =>
    cases h
    exact Reads.record ((reads_takeByte first).last fun _ => rfl)
  | clearFaults kinds =>
    cases h
    exact Reads.record ((reads_takeWord kinds).last fun _ => rfl)
  | unknownCode code =>
    cases h
    exact Reads.record (reads_of_no_fields (decodeFields_of_unknown hi))
  | stop => cases h; exact Reads.record (reads_of_no_fields fun _ => rfl)
  | confirm => cases h; exact Reads.record (reads_of_no_fields fun _ => rfl)
  | hold => cases h; exact Reads.record (reads_of_no_fields fun _ => rfl)
  | release => cases h; exact Reads.record (reads_of_no_fields fun _ => rfl)
  | resume => cases h; exact Reads.record (reads_of_no_fields fun _ => rfl)
  | status => cases h; exact Reads.record (reads_of_no_fields fun _ => rfl)
  | clearLost => cases h; exact Reads.record (reads_of_no_fields fun _ => rfl)
  | _ => cases h

/-! ### Frames (R15 to R17, R39) -/

/-- A number in two bytes, high byte first. -/
theorem pair_toNat {v : Nat} (h : v < 65536) :
    (pair (BitVec.ofNat 8 (v / 256 ^ 1)) (BitVec.ofNat 8 (v / 256 ^ 0))).toNat = v := by
  have hlow : v / 256 ^ 0 % 2 ^ 8 < 2 ^ 8 := Nat.mod_lt _ (by decide)
  unfold pair
  rw [BitVec.toNat_append, BitVec.toNat_ofNat, BitVec.toNat_ofNat,
    ← Nat.shiftLeft_add_eq_or_of_lt hlow, Nat.shiftLeft_eq]
  omega

/-- A signed value in two bytes, two's complement. -/
theorem pair_toInt {v : Int} (hlo : -32768 ≤ v) (hhi : v < 32768) :
    (pair (BitVec.ofNat 8 ((v % (256 ^ 2 : Nat)).toNat / 256 ^ 1))
      (BitVec.ofNat 8 ((v % (256 ^ 2 : Nat)).toNat / 256 ^ 0))).toInt = v := by
  rw [BitVec.toInt_eq_toNat_cond, pair_toNat (by omega)]
  split <;> omega

theorem cls_code_lt (c : Cls) : c.code < 2 := by cases c <;> decide

theorem phase_code_lt (p : Phase) : p.code < 5 := by cases p <;> decide

theorem phase_ofCode_code (p : Phase) : Phase.ofCode p.code = some p := by cases p <;> rfl

theorem cls_of_code (c : Cls) : (if c.code = 0 then Cls.normal else .priority) = c := by
  cases c <;> rfl

/-- The station, phase and class in bytes 1 and 2 (R39). -/
theorem word_fields (f : Frame) (h : f.station ≤ 4095) : f.word < 65536 ∧
    f.word / 16 = f.station ∧ f.word / 2 % 8 = f.phase.code ∧ f.word % 2 = f.cls.code := by
  have hphase := phase_code_lt f.phase
  have hcls := cls_code_lt f.cls
  unfold Frame.word
  omega

end Sys2Proof.Machine

section
open Sys2Proof Sys2Proof.Machine

/-- Settles O55: each code's reader takes exactly the fields of its record. -/
theorem commandRecordsReadBack : Obligations.CommandRecordsReadBack := by
  unfold Obligations.CommandRecordsReadBack
  intro i bs hi h
  obtain ⟨whole, short⟩ := reads_encodeRecord hi h
  exact ⟨whole, short⟩

end
end

section
/-! SUPPORT. An announcement's frame reads back (R15 to R17, R39). -/

namespace Sys2Proof.Machine

/-- Bytes that carry a frame's fields, each in its range, read as the frame. -/
theorem readFrame_of_fields {f : Frame}
    {b1 b2 b3 b4 b5 b6 b7 b8 b9 b10 b11 b12 b13 b14 b15 b16 c d : Byte}
    (hstation : 1 ≤ f.station) (htop : f.station ≤ 4095)
    (heastTop : f.east ≤ 32767) (hnorthTop : f.north ≤ 32767)
    (hfrom : -300 ≤ f.fromOffset ∧ f.fromOffset ≤ 300)
    (hto : -300 ≤ f.toOffset ∧ f.toOffset ≤ 300)
    (word : (pair b1 b2).toNat = f.word) (move : b3 = f.move) (age : b4.toNat = f.claimAge)
    (east : (pair b5 b6).toNat = f.east) (north : (pair b7 b8).toNat = f.north)
    (fromOffset : (pair b9 b10).toInt = f.fromOffset) (toOffset : (pair b11 b12).toInt = f.toOffset)
    (timeA : (pair b13 b14).toNat = f.timeA) (timeB : (pair b15 b16).toNat = f.timeB) :
    readFrame [1, b1, b2, b3, b4, b5, b6, b7, b8, b9, b10, b11, b12, b13, b14, b15, b16, c, d] =
      some f := by
  obtain ⟨-, hnumber, hphase, hclass⟩ := word_fields f htop
  have hranges : True ∧ f.station ≠ 0 ∧ f.east ≤ 32767 ∧ f.north ≤ 32767 ∧
      -300 ≤ f.fromOffset ∧ f.fromOffset ≤ 300 ∧ -300 ≤ f.toOffset ∧ f.toOffset ≤ 300 :=
    ⟨trivial, Nat.one_le_iff_ne_zero.1 hstation, heastTop, hnorthTop, hfrom.1, hfrom.2, hto.1, hto.2⟩
  unfold readFrame
  simp only [word, move, age, east, north, fromOffset, toOffset, timeA, timeB, hnumber, hphase,
    hclass, phase_ofCode_code, cls_of_code]
  exact if_pos hranges

theorem frame_body_length (f : Frame) : f.body.length = 17 := rfl

/-- The check of a frame is over its body. -/
theorem passesCheck_bytes (f : Frame) : passesCheck f.bytes = true := by
  unfold passesCheck Frame.bytes
  rw [List.drop_left' (frame_body_length f), List.take_left' (frame_body_length f)]
  exact decide_eq_true rfl

end Sys2Proof.Machine

section
open Sys2Proof Sys2Proof.Machine

/-- Settles O56: the check is over the body, and each field of the body reads as it was put. -/
theorem framesReadBack : Obligations.FramesReadBack := by
  unfold Obligations.FramesReadBack
  intro f hstation htop hage heast hnorth hfromLo hfromHi htoLo htoHi hA hB
  have hread : readFrame f.bytes = some f :=
    readFrame_of_fields hstation htop heast hnorth ⟨hfromLo, hfromHi⟩ ⟨htoLo, htoHi⟩
      (pair_toNat (word_fields f htop).1)
      ((BitVec.ofNat_toNat 8 f.move).trans (BitVec.setWidth_eq f.move))
      (BitVec.toNat_ofNat _ _ |>.trans (Nat.mod_eq_of_lt (Nat.lt_succ_of_le hage)))
      (pair_toNat (by omega)) (pair_toNat (by omega)) (pair_toInt (by omega) (by omega))
      (pair_toInt (by omega) (by omega)) (pair_toNat (by omega)) (pair_toNat (by omega))
  refine ⟨rfl, ?_⟩
  unfold wellFormedFrame
  exact (if_pos (passesCheck_bytes f)).trans hread

end
end
